-- ==== Sys2Proof/Word.lean ====
section
/-! DEFINITION. The word types of PRNG-CORE (00_scope.md R14, R17): every value is unsigned, bit 0 is the
least significant bit. -/

namespace Sys2Proof

/-- A 32-bit word: CMD, RSP_DATA, an XS state, a word of the MT array. -/
abbrev Word := BitVec 32

/-- A 64-bit word: SEED_IN, ENTROPY_IN, a PCG state. -/
abbrev DWord := BitVec 64

/-- The INST field of a command, 0..255 (R56). -/
abbrev InstNum := BitVec 8

end Sys2Proof
end

