-- ==== Sys2Proof/Config.lean ====
section
/-! DEFINITION. What an implementation of PRNG-CORE fixes (00_scope.md R12, R15), the fixed sizes that types of State
need, and the free values the spec leaves open (93_implementation_defined.md). -/

namespace Sys2Proof.Config

/-- NINST at `State.reset`: the spec's default, 1 (R12, 92 D4). Other values of 1..256 are the states
`State.resetWith n`; no operation reads this constant (log 1). -/
def ninst : Nat := 1

/-- The largest NINST, which the 8-bit INST field bounds (R12, R56). -/
def ninstMax : Nat := 256

/-- The degree n of MT19937: words in one array (R8). -/
abbrev mtN : Nat := 624

/-- BBS_P, BBS_Q and the modulus BBS_N = p × q (R11, R25). -/
abbrev bbsP : Nat := 499
/-- See `bbsP`. -/
abbrev bbsQ : Nat := 547
/-- See `bbsP`. -/
abbrev bbsN : Nat := 272953

/-- The two readings of the MT twist's bit split, the parameter MT_PAIR_SPLIT (R15, R72, 90_conflicts.md C1). -/
inductive PairSplit where
  /-- the upper 1 bit of the current word with the lower 31 bits of the following one -/
  | standard
  /-- the upper 31 bits of the current word with the lower 1 bit of the following one -/
  | literal
deriving DecidableEq, Repr

/-- FREE VALUE. RSP_STATUS between acceptance and the response, which R136 leaves unspecified (93 U7, log 7). -/
opaque freeStatus : Nat → BitVec 2

/-- FREE VALUE. RSP_DATA between acceptance and the response (R136, 93 U7, log 7). -/
opaque freeData : Nat → Word

/-- PRNG_BASE, the block's place in a system's address map, left to the platform (R46, R127). No rule reads it (log 13). -/
opaque prngBase : Nat

/-- The part of the latency beyond its first cycle, by command word (R12, R139, log 8). -/
opaque extraLatency : Word → Nat

/-- LAT ≥ 1, the latency of a command (R12, R136). No rule reads it, and time is not modelled (log 8). -/
def lat (cmd : Word) : Nat := extraLatency cmd + 1

end Sys2Proof.Config
end

