-- ==== Sys2Proof/Syntax.lean ====
section
/-! DEFINITION. The eleven commands of PRNG-CORE (30_encoding.md R60), in the order of spec/opcode_table.json. A command
carries only its instance number; the side operands SEED_IN and ENTROPY_IN travel beside the word (R64, R69). -/

namespace Sys2Proof

/-- The engine kinds (R54). -/
inductive Kind where
  | mt
  | xs
  | pcg
  | bbs
deriving DecidableEq, Repr

/-- The operations (R55). -/
inductive Op where
  | next
  | seed
  | seedd
deriving DecidableEq, Repr

/-- A decoded command; its argument is the instance number INST (R56). -/
inductive Instr where
  /-- mt.next: twist one word on demand, temper and return it (R75) -/
  | mtNext (inst : InstNum)
  /-- mt.seed: construct from SEED_IN[31:0] (R70) -/
  | mtSeed (inst : InstNum)
  /-- xs.next (R87) -/
  | xsNext (inst : InstNum)
  /-- xs.seed (R85) -/
  | xsSeed (inst : InstNum)
  /-- xs.seedd: construct from the draw ENTROPY_IN[31:0] (R86) -/
  | xsSeedd (inst : InstNum)
  /-- pcg.next (R95) -/
  | pcgNext (inst : InstNum)
  /-- pcg.seed (R93) -/
  | pcgSeed (inst : InstNum)
  /-- pcg.seedd (R94) -/
  | pcgSeedd (inst : InstNum)
  /-- bbs.next (R108) -/
  | bbsNext (inst : InstNum)
  /-- bbs.seed (R104) -/
  | bbsSeed (inst : InstNum)
  /-- bbs.seedd (R105) -/
  | bbsSeedd (inst : InstNum)
deriving DecidableEq, Repr

/-- The instance a command names (R56). -/
def Instr.inst : Instr → InstNum
  | .mtNext i => i
  | .mtSeed i => i
  | .xsNext i => i
  | .xsSeed i => i
  | .xsSeedd i => i
  | .pcgNext i => i
  | .pcgSeed i => i
  | .pcgSeedd i => i
  | .bbsNext i => i
  | .bbsSeed i => i
  | .bbsSeedd i => i

/-- The engine kind a command names (R54). -/
def Instr.kind : Instr → Kind
  | .mtNext _ => .mt
  | .mtSeed _ => .mt
  | .xsNext _ => .xs
  | .xsSeed _ => .xs
  | .xsSeedd _ => .xs
  | .pcgNext _ => .pcg
  | .pcgSeed _ => .pcg
  | .pcgSeedd _ => .pcg
  | .bbsNext _ => .bbs
  | .bbsSeed _ => .bbs
  | .bbsSeedd _ => .bbs

/-- The operation of a command (R55). -/
def Instr.op : Instr → Op
  | .mtNext _ => .next
  | .mtSeed _ => .seed
  | .xsNext _ => .next
  | .xsSeed _ => .seed
  | .xsSeedd _ => .seedd
  | .pcgNext _ => .next
  | .pcgSeed _ => .seed
  | .pcgSeedd _ => .seedd
  | .bbsNext _ => .next
  | .bbsSeed _ => .seed
  | .bbsSeedd _ => .seedd

end Sys2Proof
end

