-- ==== Sys2Proof/WellFormed.lean ====
section
/-! DEFINITION. When a command is legal on a part with `ninst` instances of each kind: the one check that the syntax
leaves, INST < NINST (30_encoding.md R56, R61, R62). -/

namespace Sys2Proof

/-- The command names an instance the part has (R56). -/
def Instr.wf (ninst : Nat) (i : Instr) : Bool := i.inst.toNat < ninst

/-- A legal value of the parameter NINST, 1..256 (R12). -/
def ninstWf (ninst : Nat) : Bool := 1 ≤ ninst && ninst ≤ Config.ninstMax

end Sys2Proof
end

