-- ==== Sys2Proof/Decode.lean ====
section
/-! DEFINITION. Decoding and encoding of command words (30_encoding.md R53..R64). `decode` is total on the 2^32 words;
every rejection has a name, and each of them is answered by ILLEGAL_COMMAND (60_exceptions.md R115). -/

namespace Sys2Proof

/-- Why a word is illegal: the four cases of R115, in the order in which they are checked (R120). -/
inductive DecodeError where
  /-- case 1: CMD[31:16] ≠ 0 or CMD[7:4] ≠ 0 (R57) -/
  | reservedBits
  /-- case 2: OP = 00 (R55) -/
  | reservedOp
  /-- case 3: OP = 11 with ENG = 00: the MT seed is not optional (R59) -/
  | mtHasNoSeedd
  /-- case 4: INST ≥ NINST (R56) -/
  | noSuchInstance
deriving DecidableEq, Repr

/-- CMD[1:0] (R53). -/
def engField (cmd : Word) : BitVec 2 := cmd.extractLsb' 0 2
/-- CMD[3:2] (R53). -/
def opField (cmd : Word) : BitVec 2 := cmd.extractLsb' 2 2
/-- CMD[7:4] (R53). -/
def rsv0Field (cmd : Word) : BitVec 4 := cmd.extractLsb' 4 4
/-- CMD[15:8] (R53). -/
def instField (cmd : Word) : InstNum := cmd.extractLsb' 8 8
/-- CMD[31:16] (R53). -/
def rsv1Field (cmd : Word) : BitVec 16 := cmd.extractLsb' 16 16

/-- The kind an ENG field selects; all four values are used (R54). -/
def kindOfField (eng : BitVec 2) : Kind :=
  if eng = 0b00#2 then .mt else if eng = 0b01#2 then .xs else if eng = 0b10#2 then .pcg else .bbs

/-- The operation an OP field selects; 00 is reserved (R55). -/
def opOfField (op : BitVec 2) : Option Op :=
  if op = 0b01#2 then some .next else if op = 0b10#2 then some .seed
  else if op = 0b11#2 then some .seedd else none

/-- The command of an operation, a kind and an instance; the opcode map has no MT.SEEDD (R60). -/
def instrOf : Op → Kind → InstNum → Option Instr
  | .next, .mt, i => some (.mtNext i)
  | .seed, .mt, i => some (.mtSeed i)
  | .seedd, .mt, _ => none
  | .next, .xs, i => some (.xsNext i)
  | .seed, .xs, i => some (.xsSeed i)
  | .seedd, .xs, i => some (.xsSeedd i)
  | .next, .pcg, i => some (.pcgNext i)
  | .seed, .pcg, i => some (.pcgSeed i)
  | .seedd, .pcg, i => some (.pcgSeedd i)
  | .next, .bbs, i => some (.bbsNext i)
  | .seed, .bbs, i => some (.bbsSeed i)
  | .seedd, .bbs, i => some (.bbsSeedd i)

/-- `decode(CMD, NINST)` of R61, with its checks in the order written there. -/
def decode (cmd : Word) (ninst : Nat) : Except DecodeError Instr :=
  if rsv1Field cmd ≠ 0 ∨ rsv0Field cmd ≠ 0 then .error .reservedBits
  else match opOfField (opField cmd) with
    | none => .error .reservedOp
    | some op => match instrOf op (kindOfField (engField cmd)) (instField cmd) with
      | none => .error .mtHasNoSeedd
      | some i => if i.wf ninst then .ok i else .error .noSuchInstance

/-- The ENG field of a kind (R54). -/
def kindField : Kind → BitVec 2
  | .mt => 0b00#2
  | .xs => 0b01#2
  | .pcg => 0b10#2
  | .bbs => 0b11#2

/-- The OP field of an operation (R55). -/
def opBits : Op → BitVec 2
  | .next => 0b01#2
  | .seed => 0b10#2
  | .seedd => 0b11#2

/-- The command word of a command: the pattern `0000000000000000 IIIIIIII 0000 OO EE` (R53). -/
def encode (i : Instr) : Word :=
  (0#16 ++ i.inst ++ 0#4 ++ opBits i.op ++ kindField i.kind : BitVec (16 + 8 + 4 + 2 + 2))

/-- The decoder asked about a row of the opcode table: the row's bits as one command word (R64), decoded at the largest
NINST, at which every INST value is legal (95_test_vectors.md L2.6, log 15). Bits above the word give no command. -/
def decodeTableWord (nbits w : Nat) : Option Instr :=
  if w % 2 ^ nbits < 2 ^ 32 then (decode (BitVec.ofNat 32 (w % 2 ^ nbits)) Config.ninstMax).toOption else none

end Sys2Proof
end

