-- ==== Sys2Proof/Machine/State.lean ====
section
/-! DEFINITION. The state of PRNG-CORE (10_state.md), as plain data, and its reset (R37, R130). -/

namespace Sys2Proof.Machine

/-- MT[i]: the 624-word array, the index and the constructed flag (R21, R22, R39). -/
structure MtEngine where
  /-- MT[i].st[0..623] -/
  st : Vector Word Config.mtN
  /-- MT[i].idx: 0..623 only (R22) -/
  idx : Fin Config.mtN
  /-- MT[i].con (R26) -/
  con : Bool
deriving DecidableEq, Repr

/-- XS[i]: one 32-bit word and the constructed flag (R23). -/
structure XsEngine where
  st : Word
  con : Bool
deriving DecidableEq, Repr

/-- PCG[i]: one 64-bit word and the constructed flag (R24). -/
structure PcgEngine where
  st : DWord
  con : Bool
deriving DecidableEq, Repr

/-- BBS[i]: a residue mod 272953 and the constructed flag (R25, R39). -/
structure BbsEngine where
  st : Fin Config.bbsN
  con : Bool
deriving DecidableEq, Repr

/-- The four engines with one instance number i: MT[i], XS[i], PCG[i] and BBS[i]. They share no state (R2, R36). -/
structure Engines where
  mt : MtEngine
  xs : XsEngine
  pcg : PcgEngine
  bbs : BbsEngine
deriving DecidableEq, Repr

/-- What the outside presents to the block (70_reset_and_hazards.md R130, R135, R136). -/
inductive HostInput where
  /-- CMD_VALID = 1 with the tuple (CMD, SEED_IN, ENTROPY_IN), held until it is accepted (R135, R136) -/
  | command (cmd : Word) (seedIn entropyIn : DWord)
  /-- CMD_VALID = 0 at a step at which the block is ready (R129) -/
  | idle
  /-- RST is asserted and released (R130); it comes before anything the block would do next (R131) -/
  | reset
deriving DecidableEq, Repr

/-- Every piece of state of the block (R20), and two fields of the model's own (`host`, `freeCount`). -/
structure State where
  /-- The engine instances; entry i holds MT[i], XS[i], PCG[i], BBS[i]. Its length is NINST (R12, R20, log 1). -/
  insts : List Engines
  /-- CMD_READY; false while one command is in flight (R136). -/
  cmdReady : Bool
  /-- CMD[31:0], as sampled at the last acceptance (R28). -/
  cmd : Word
  /-- SEED_IN[63:0], as sampled at the last acceptance (R28). -/
  seedIn : DWord
  /-- ENTROPY_IN[63:0], as sampled at the last acceptance (R28). -/
  entropyIn : DWord
  /-- RSP_STATUS[1:0] (R29, R114). -/
  rspStatus : BitVec 2
  /-- RSP_DATA[31:0] (R29). -/
  rspData : Word
  /-- RSP_VALID (R29). -/
  rspValid : Bool
  /-- THE MODEL'S OWN: what the outside presents from now on, oldest first (log 6). -/
  host : List HostInput
  /-- THE MODEL'S OWN: how many free values of the output registers were used so far (log 7). -/
  freeCount : Nat
deriving DecidableEq, Repr

/-- No step of this block faults: an error response "is a defined outcome, not a fault of the block" (60_exceptions.md
R118), and every command finishes (R140). So this type has no constructor, and nothing raises one (safe, log 14). -/
inductive Fault where
deriving DecidableEq, Repr

/-- Why a step can refuse. -/
inductive Refusal where
  /-- Raised by `exec` alone, for an instruction that has no meaning yet; no arm raises it now. Safe. -/
  | notModelled (mnemonic : String)
deriving DecidableEq, Repr

/-- NINST: how many instances of each kind the part has (R12). -/
def State.ninst (s : State) : Nat := s.insts.length

/-- The engines of one instance number after reset: every con flag is 0; the contents are unspecified (R37) and the
model names 0 (DESIGN CHOICE, log 4). -/
def Engines.reset : Engines where
  mt := { st := Vector.replicate Config.mtN 0#32, idx := 0, con := false }
  xs := { st := 0#32, con := false }
  pcg := { st := 0#64, con := false }
  bbs := { st := 0, con := false }

/-- The reset state of a part with `n` instances of each kind (R37, R130). -/
def State.resetWith (n : Nat) : State where
  insts := List.replicate n Engines.reset
  cmdReady := true
  cmd := 0#32
  seedIn := 0#64
  entropyIn := 0#64
  rspStatus := 0b00#2
  rspData := 0#32
  rspValid := false
  host := []
  freeCount := 0

/-- The machine right after reset, with the spec's default NINST (R12, R37). -/
def State.reset : State := State.resetWith Config.ninst

end Sys2Proof.Machine
end

