-- ==== Sys2Proof/Machine/Operands.lean ====
section
/-! DEFINITION. The operand forms: how a SEED command takes its seed from SEED_IN (30_encoding.md R58), how a SEEDD
command takes it from ENTROPY_IN (R59), and how a 32-bit bus adapter carries a 64-bit operand (20_memory.md R41). -/

namespace Sys2Proof.Machine

/-- The seed of MT.SEED and XS.SEED: SEED_IN[31:0], or none where SEED_IN[63:32] ≠ 0 (R58). -/
def seed32 (seedIn : DWord) : Option Word :=
  if seedIn.extractLsb' 32 32 = 0#32 then some (seedIn.extractLsb' 0 32) else none

/-- The seed of PCG.SEED and BBS.SEED: SEED_IN[63:0], with no operand check (R58). -/
def seed64 (seedIn : DWord) : Option DWord := some seedIn

/-- `draw_32()`: the seed of XS.SEEDD, ENTROPY_IN[31:0], with no operand check (R59, R86). -/
def draw32 (entropyIn : DWord) : Option Word := some (entropyIn.extractLsb' 0 32)

/-- `draw_64()`: the seed of PCG.SEEDD and BBS.SEEDD, ENTROPY_IN[63:0] (R59). -/
def draw64 (entropyIn : DWord) : Option DWord := some entropyIn

/-- A 64-bit operand from the two beats of a 32-bit adapter: bits [31:0] come first, bits [63:32] second (R41). -/
def fromBeats (first second : Word) : DWord := (second ++ first : BitVec (32 + 32))

/-- The command an adapter presents once both halves of both operands are there (R41). -/
def HostInput.viaAdapter (cmd seedFirst seedSecond entropyFirst entropySecond : Word) : HostInput :=
  .command cmd (fromBeats seedFirst seedSecond) (fromBeats entropyFirst entropySecond)

end Sys2Proof.Machine
end

