-- ==== Sys2Proof/Machine/Flags.lean ====
section
/-! DEFINITION. The block has no flags or condition codes (10_state.md R31); its one status is the response status,
written whole by every command (60_exceptions.md R114). -/

namespace Sys2Proof.Machine

/-- The errors a command can end with (R115, R116, R117). -/
inductive CommandError where
  | illegalCommand
  | illegalOperand
  | unseeded
deriving DecidableEq, Repr

/-- RSP_STATUS of a command that ran (R114). -/
def okStatus : BitVec 2 := 0b00#2

/-- RSP_STATUS of an error (R114). -/
def CommandError.status : CommandError → BitVec 2
  | .illegalCommand => 0b01#2
  | .illegalOperand => 0b10#2
  | .unseeded => 0b11#2

end Sys2Proof.Machine
end

