-- ==== Sys2Proof/Machine/Ops.lean ====
section
/-! DEFINITION. The operations every command is built from: finding and replacing the named instance (10_state.md R36),
answering (`respond`), the error response (`raise`, 60_exceptions.md R118), the two command shapes construct and pull,
and reset (70_reset_and_hazards.md R130). The block has no trap entry and no return from one (R122, R123): `raise` is
its whole way of taking an exception. -/

namespace Sys2Proof.Machine

/-- The engines with instance number `inst`, if the part has them (R56). -/
def State.engines (s : State) (inst : InstNum) : Option Engines := s.insts[inst.toNat]?

/-- `s` with the engines of instance number `inst` replaced, and no other instance touched (R36). -/
def State.setEngines (s : State) (inst : InstNum) (g : Engines) : State :=
  { s with insts := s.insts.set inst.toNat g }

/-- The response of R136: RSP_STATUS and RSP_DATA are written, then RSP_VALID and CMD_READY are set together. -/
def writeResponse (status : BitVec 2) (data : Word) (s : State) : State :=
  { s with rspStatus := status, rspData := data, rspValid := true, cmdReady := true }

/-- `respond(v)`: the command ends with status OK and data v (R19, R114). -/
def respond (data : Word) (s : State) : State := writeResponse okStatus data s

/-- `raise <Error>`: the command ends with the error's response, RSP_DATA is 0, and no state but the output registers
changes (R19, R114, R118). -/
def raise (e : CommandError) (s : State) : State := writeResponse e.status 0#32 s

/-- A construct command on instance `inst` (R70, R85, R86, R93, R94, R104, R105): ILLEGAL_COMMAND where the part has no
such instance, then ILLEGAL_OPERAND where the operand gives no seed, else the engines that the seed gives and the
response 0; the order is that of R120. -/
def construct {α : Type} (inst : InstNum) (seed : Option α) (build : α → Engines → Engines) (s : State) :
    Host.Outcome State Fault Refusal :=
  match s.engines inst with
  | none => .next (raise .illegalCommand s)
  | some g => match seed with
    | none => .next (raise .illegalOperand s)
    | some v => .next (respond 0#32 (s.setEngines inst (build v g)))

/-- A pull command on instance `inst` (R75, R87, R95, R108): ILLEGAL_COMMAND where the part has no such instance, then
UNSEEDED where its flag `con` is 0 (R117), else the advanced engines and the response `out`, both computed from the
engines before the pull. -/
def pull (inst : InstNum) (con : Engines → Bool) (advance : Engines → Engines) (out : Engines → Word) (s : State) :
    Host.Outcome State Fault Refusal :=
  match s.engines inst with
  | none => .next (raise .illegalCommand s)
  | some g =>
    if con g then .next (respond (out g) (s.setEngines inst (advance g)))
    else .next (raise .unseeded s)

/-- RST asserted and released (R130, R131): the reset state of a part with the same NINST, whatever was in flight; the
outside goes on with `rest`. -/
def applyReset (rest : List HostInput) (s : State) : State :=
  { State.resetWith s.ninst with host := rest, freeCount := s.freeCount }

end Sys2Proof.Machine
end

