-- ==== Sys2Proof/Machine/Bbs.lean ====
section
/-! DEFINITION. The Blum Blum Shub engine (43_bbs.md): exact squares mod n = 272953, and the meanings of bbs.next,
bbs.seed and bbs.seedd. -/

namespace Sys2Proof.Machine

/-- `(x × x) mod 272953`, of an exact integer x (R104, R107). -/
def bbsSquare (x : Nat) : Fin Config.bbsN := ⟨x * x % Config.bbsN, Nat.mod_lt _ (by decide)⟩

/-- The BBS engine that construction gives: seed² mod n (R104). -/
def bbsConstructed (seed : DWord) : BbsEngine := { st := bbsSquare seed.toNat, con := true }

/-- bbs.next (R108): the value returned is the whole new residue (R109). -/
def execBbsNext (inst : InstNum) (s : State) : Host.Outcome State Fault Refusal :=
  pull inst (fun g => g.bbs.con) (fun g => { g with bbs := { st := bbsSquare g.bbs.st.val, con := g.bbs.con } })
    (fun g => BitVec.ofNat 32 (bbsSquare g.bbs.st.val).val) s

/-- bbs.seed (R104). -/
def execBbsSeed (inst : InstNum) (s : State) : Host.Outcome State Fault Refusal :=
  construct inst (seed64 s.seedIn) (fun v g => { g with bbs := bbsConstructed v }) s

/-- bbs.seedd (R105). -/
def execBbsSeedd (inst : InstNum) (s : State) : Host.Outcome State Fault Refusal :=
  construct inst (draw64 s.entropyIn) (fun v g => { g with bbs := bbsConstructed v }) s

end Sys2Proof.Machine
end

