-- ==== Sys2Proof/Machine/Constants.lean ====
section
/-! DEFINITION. The hard-wired engine constants (00_scope.md R8..R10) and the spec's values of its two reading
parameters (R15, R16). The BBS constants stand in Config.lean, because a type of State needs the modulus. -/

namespace Sys2Proof.Machine

/-- f, the MT initialization multiplier (R8). -/
def mtF : Word := 1812433253#32
/-- a, the MT twist mask (R8). -/
def mtA : Word := 0x9908B0DF#32
/-- b, the first tempering mask (R8). -/
def mtB : Word := 0x9D2C5680#32
/-- c, the second tempering mask (R8). -/
def mtC : Word := 0xEFC60000#32

/-- UMASK, by reading (R8, R72). -/
def mtUmask : Config.PairSplit → Word
  | .standard => 0x80000000#32
  | .literal => 0xFFFFFFFE#32

/-- LMASK, by reading (R8, R72). -/
def mtLmask : Config.PairSplit → Word
  | .standard => 0x7FFFFFFF#32
  | .literal => 0x00000001#32

/-- MT_PAIR_SPLIT: the spec's value (R15, 90_conflicts.md C1). UNVERIFIED: a crosscheck may yet show `literal` (log 2). -/
def mtPairSplit : Config.PairSplit := .standard

/-- PCG_MULT (R10). -/
def pcgMult : DWord := 6364136223846793005#64
/-- PCG_INC (R10). -/
def pcgInc : DWord := 1442695040888963407#64

/-- PCG_XSH_TRUNC: the spec's value (R16, 90_conflicts.md C3). UNVERIFIED: a crosscheck may yet show `false` (log 3). -/
def pcgXshTrunc : Bool := true

end Sys2Proof.Machine
end

