-- ==== Sys2Proof/Machine/Mt.lean ====
section
/-! DEFINITION. The MT19937 engine (40_mt19937.md): its helper functions R71..R74 and the meanings of mt.next and
mt.seed. -/

namespace Sys2Proof.Machine

/-- One step of the seed recurrence: word k from word k−1 = p, with wrapping arithmetic (R70, R71). -/
def mtSeedStep (p : Word) (k : Nat) : Word := mtF * (p ^^^ (p >>> 30)) + BitVec.ofNat 32 k

/-- `n` words of the seeded array, of which the first is word k and has the value p (the loop of R70). -/
def mtSeedWords : Word → Nat → Nat → List Word
  | _, _, 0 => []
  | p, k, n + 1 => p :: mtSeedWords (mtSeedStep p (k + 1)) (k + 1) n

theorem mtSeedWords_length (p : Word) (k n : Nat) : (mtSeedWords p k n).length = n := by
  induction n generalizing p k with
  | zero => rfl
  | succ n ih => simp [mtSeedWords, ih]

/-- The array after MT.SEED with seed s: word 0 is s, and words 1..623 follow by the recurrence (R70). -/
def mtSeedArray (seed : Word) : Vector Word Config.mtN :=
  ⟨(mtSeedWords seed 0 Config.mtN).toArray, by simp [mtSeedWords_length]⟩

/-- The MT engine that construction gives (R70, R38). -/
def mtConstructed (seed : Word) : MtEngine := { st := mtSeedArray seed, idx := 0, con := true }

/-- `pair(cur, nxt)`, for either reading of MT_PAIR_SPLIT (R72). -/
def mtPair (split : Config.PairSplit) (cur nxt : Word) : Word :=
  (cur &&& mtUmask split) ||| (nxt &&& mtLmask split)

/-- `twistA(x)`: the twist mask is applied only when the low bit is set (R73). -/
def mtTwistA (x : Word) : Word :=
  if x.getLsbD 0 then (x >>> 1) ^^^ mtA else x >>> 1

/-- `temper(x)` (R74). -/
def mtTemper (x : Word) : Word :=
  let y := x ^^^ (x >>> 11)
  let y := y ^^^ ((y <<< 7) &&& mtB)
  let y := y ^^^ ((y <<< 15) &&& mtC)
  y ^^^ (y >>> 18)

/-- The new word of a pull at index k: st[(k − 227) mod 624] ^ twistA(pair(st[k], st[(k − 623) mod 624])) (R75). All three
reads are of the array before the pull's write. -/
def mtNewWord (split : Config.PairSplit) (e : MtEngine) : Word :=
  e.st[e.idx - 227] ^^^ mtTwistA (mtPair split e.st[e.idx] e.st[e.idx - 623])

/-- The engine after a pull: word k is rewritten and the index moves on, mod 624 (R75). -/
def mtAdvance (split : Config.PairSplit) (e : MtEngine) : MtEngine :=
  { st := e.st.set e.idx (mtNewWord split e), idx := e.idx + 1, con := e.con }

/-- The value a pull returns: the tempered new word (R75). -/
def mtOutput (split : Config.PairSplit) (e : MtEngine) : Word := mtTemper (mtNewWord split e)

/-- mt.next (R75). -/
def execMtNext (inst : InstNum) (s : State) : Host.Outcome State Fault Refusal :=
  pull inst (fun g => g.mt.con) (fun g => { g with mt := mtAdvance mtPairSplit g.mt })
    (fun g => mtOutput mtPairSplit g.mt) s

/-- mt.seed (R70). -/
def execMtSeed (inst : InstNum) (s : State) : Host.Outcome State Fault Refusal :=
  construct inst (seed32 s.seedIn) (fun v g => { g with mt := mtConstructed v }) s

end Sys2Proof.Machine
end

