-- ==== Sys2Proof/Machine/Pcg.lean ====
section
/-! DEFINITION. The PCG32 engine (42_pcg32.md): its helper functions R96..R99 and the meanings of pcg.next, pcg.seed and
pcg.seedd. -/

namespace Sys2Proof.Machine

/-- `lcg(s) = s × PCG_MULT + PCG_INC` mod 2^64 (R96). The constants stand first so that the kernel, when it compares two
states, does not count through them. -/
def pcgLcg (s : DWord) : DWord := pcgInc + pcgMult * s

/-- `xsh(s)` (R97), zero-extended to 64 bits: 32 bits of it where `trunc`, else the 37-bit value. -/
def pcgXsh (trunc : Bool) (s : DWord) : DWord :=
  let v := ((s >>> 18) ^^^ s) >>> 27
  if trunc then (v.setWidth 32).setWidth 64 else v

/-- `rot = s >> 59`, the top 5 bits (R98). -/
def pcgRot (s : DWord) : BitVec 5 := s.extractLsb' 59 5

/-- `trunc_32((x >> rot) | (x << ((−rot) & 31)))` (R18, R99), for an x of at most 37 bits: the bits a 64-bit left shift
drops lie above bit 31. -/
def rotr32 (x : DWord) (rot : BitVec 5) : Word :=
  ((x >>> rot.toNat) ||| (x <<< (-rot).toNat)).setWidth 32

/-- The output permutation XSH-RR of an advanced state (R95). -/
def pcgPermute (trunc : Bool) (s : DWord) : Word := rotr32 (pcgXsh trunc s) (pcgRot s)

/-- The PCG engine that construction gives: the seed is the state (R93). -/
def pcgConstructed (seed : DWord) : PcgEngine := { st := seed, con := true }

/-- pcg.next (R95): the state advances first, and the output is computed from the advanced state (R100). -/
def execPcgNext (inst : InstNum) (s : State) : Host.Outcome State Fault Refusal :=
  pull inst (fun g => g.pcg.con) (fun g => { g with pcg := { st := pcgLcg g.pcg.st, con := g.pcg.con } })
    (fun g => pcgPermute pcgXshTrunc (pcgLcg g.pcg.st)) s

/-- pcg.seed (R93). -/
def execPcgSeed (inst : InstNum) (s : State) : Host.Outcome State Fault Refusal :=
  construct inst (seed64 s.seedIn) (fun v g => { g with pcg := pcgConstructed v }) s

/-- pcg.seedd (R94). -/
def execPcgSeedd (inst : InstNum) (s : State) : Host.Outcome State Fault Refusal :=
  construct inst (draw64 s.entropyIn) (fun v g => { g with pcg := pcgConstructed v }) s

end Sys2Proof.Machine
end

