-- ==== Sys2Proof/Machine/Xs.lean ====
section
/-! DEFINITION. The Xorshift32 engine (41_xorshift32.md) and the meanings of xs.next, xs.seed and xs.seedd. The shift
amounts 13, 17 and 5 are those of 00_scope.md R9. -/

namespace Sys2Proof.Machine

/-- The three shift-xor steps (R87, R88): each left shift drops the bits above bit 31 before the xor. -/
def xsStep (s : Word) : Word :=
  let s := s ^^^ (s <<< 13)
  let s := s ^^^ (s >>> 17)
  s ^^^ (s <<< 5)

/-- The XS engine that construction gives: the seed is the state (R85). -/
def xsConstructed (seed : Word) : XsEngine := { st := seed, con := true }

/-- xs.next (R87): the value returned is the new state. -/
def execXsNext (inst : InstNum) (s : State) : Host.Outcome State Fault Refusal :=
  pull inst (fun g => g.xs.con) (fun g => { g with xs := { st := xsStep g.xs.st, con := g.xs.con } })
    (fun g => xsStep g.xs.st) s

/-- xs.seed (R85). -/
def execXsSeed (inst : InstNum) (s : State) : Host.Outcome State Fault Refusal :=
  construct inst (seed32 s.seedIn) (fun v g => { g with xs := xsConstructed v }) s

/-- xs.seedd (R86). -/
def execXsSeedd (inst : InstNum) (s : State) : Host.Outcome State Fault Refusal :=
  construct inst (draw32 s.entropyIn) (fun v g => { g with xs := xsConstructed v }) s

end Sys2Proof.Machine
end

