-- ==== Sys2Proof/Machine/Dispatch.lean ====
section
/-! DEFINITION. One arm per command, in the order of spec/opcode_table.json. -/

namespace Sys2Proof.Machine

/-- The meaning of a decoded command (30_encoding.md R69). -/
def exec (i : Instr) (s : State) : Host.Outcome State Fault Refusal :=
  match i with
  | .mtNext inst => Sys2Proof.Machine.execMtNext inst s
  | .mtSeed inst => Sys2Proof.Machine.execMtSeed inst s
  | .xsNext inst => Sys2Proof.Machine.execXsNext inst s
  | .xsSeed inst => Sys2Proof.Machine.execXsSeed inst s
  | .xsSeedd inst => Sys2Proof.Machine.execXsSeedd inst s
  | .pcgNext inst => Sys2Proof.Machine.execPcgNext inst s
  | .pcgSeed inst => Sys2Proof.Machine.execPcgSeed inst s
  | .pcgSeedd inst => Sys2Proof.Machine.execPcgSeedd inst s
  | .bbsNext inst => Sys2Proof.Machine.execBbsNext inst s
  | .bbsSeed inst => Sys2Proof.Machine.execBbsSeed inst s
  | .bbsSeedd inst => Sys2Proof.Machine.execBbsSeedd inst s

end Sys2Proof.Machine
end

