-- ==== Sys2Proof/Machine/Port.lean ====
section
/-! DEFINITION. The command port: the inputs CMD_VALID and RST, acceptance, the completion of the command in flight, and
idling (70_reset_and_hazards.md R130..R136). One step of the block is one of reset, completion, acceptance, idle. -/

namespace Sys2Proof.Machine

/-- RST: the outside asserts reset now (R130). -/
def State.rst (s : State) : Bool :=
  match s.host with
  | .reset :: _ => true
  | _ => false

/-- CMD_VALID: the outside presents a command now (R136). -/
def State.cmdValid (s : State) : Bool :=
  match s.host with
  | .command _ _ _ :: _ => true
  | _ => false

/-- Acceptance (R136, items 1 and 2): the tuple is sampled (R28, R135), CMD_READY and RSP_VALID become 0, and RSP_STATUS
and RSP_DATA are unspecified until the response: free values (log 7). -/
def acceptCommand (cmd : Word) (seedIn entropyIn : DWord) (rest : List HostInput) (s : State) : State :=
  { s with
    cmd := cmd
    seedIn := seedIn
    entropyIn := entropyIn
    cmdReady := false
    rspValid := false
    rspStatus := Config.freeStatus s.freeCount
    rspData := Config.freeData s.freeCount
    freeCount := s.freeCount + 1
    host := rest }

/-- Completion of the command in flight: decode it with the part's NINST (30_encoding.md R61) and run it, or answer
ILLEGAL_COMMAND (60_exceptions.md R115). The command is atomic (20_memory.md R44). -/
def completeCommand (s : State) : Host.Outcome State Fault Refusal :=
  match decode s.cmd s.ninst with
  | .ok i => exec i s
  | .error _ => .next (raise .illegalCommand s)

/-- One step: RST first, whatever is in flight (R131); then the command in flight (a command that the outside presents
meanwhile waits, and is not lost, R136); then acceptance; else nothing happens (R129, log 10). -/
def portStep (s : State) : Host.Outcome State Fault Refusal :=
  match s.host, s.cmdReady with
  | .reset :: rest, _ => .next (applyReset rest s)
  | _, false => completeCommand s
  | .command c d e :: rest, true => .next (acceptCommand c d e rest s)
  | .idle :: rest, true => .next { s with host := rest }
  | [], true => .next s

/-- The outside's list without the resets it begins with. -/
def dropResets : List HostInput → List HostInput
  | .reset :: rest => dropResets rest
  | other => other

/-- `s` with the command word `cmd` in flight (CMD_READY = 0 and RSP_VALID = 0, R136), and no reset due before it completes.
SEED_IN, ENTROPY_IN and the counter of free values stay as they are. DESIGN CHOICE (logs 6 and 7): RSP_STATUS and RSP_DATA
stay as they are too, although R136 leaves them unspecified until the response; `acceptCommand`, which is what a step of the
block does, takes free values for them. -/
def placeCommand (cmd : Word) (s : State) : State :=
  { s with cmd := cmd, cmdReady := false, rspValid := false, host := dropResets s.host }

end Sys2Proof.Machine
end

