-- ==== Sys2Proof/Machine/Step.lean ====
section
/-! DEFINITION. The step of the block, and the placing of a command word where the next step runs it. -/

namespace Sys2Proof.Machine

/-- One step of PRNG-CORE. -/
def step (s : State) : Host.Outcome State Fault Refusal := portStep s

/-- `s` with the instruction whose `nbits` bits are `w` as the command in flight, so that the next step runs exactly it
(log 6; what it leaves in RSP_STATUS and RSP_DATA is the choice that `placeCommand` marks, log 7). -/
def State.withFetchWord (s : State) (nbits w : Nat) : State :=
  placeCommand (BitVec.ofNat 32 (w % 2 ^ nbits)) s

end Sys2Proof.Machine
end

