-- ==== Sys2Proof/Machine/Assembler.lean ====
section
/-! DEFINITION. The assembler of 30_encoding.md R65 and R66: what each line of a host's listing presents at the port. It
works on parsed lines; it is no part of the block, and has no effect on it (92 D19, log 18). -/

namespace Sys2Proof.Machine

/-- A line of assembly: the forms of R65, the pseudo-instructions of R66 and the `.word` directive. An omitted `@N` is
instance 0. -/
inductive AsmLine where
  /-- `<kind>.next [@N]` -/
  | next (kind : Kind) (inst : InstNum)
  /-- `<kind>.seed [@N,] S` -/
  | seed (kind : Kind) (inst : InstNum) (literal : Nat)
  /-- `<kind>.seedd [@N]` -/
  | seedd (kind : Kind) (inst : InstNum)
  /-- `<kind>.construct [@N] [, S]` -/
  | construct (kind : Kind) (inst : InstNum) (literal : Option Nat)
  /-- `<kind>.pull [@N,] K` -/
  | pull (kind : Kind) (inst : InstNum) (count : Nat)
  /-- `.word 0xXXXXXXXX` -/
  | word (w : Word)
deriving DecidableEq, Repr

/-- What the assembler rejects (R65, R66). -/
inductive AsmError where
  /-- the seed literal does not fit its kind's width -/
  | seedTooWide
  /-- `mt.seedd`, or `mt.construct` without a seed -/
  | mtSeedNotOptional
  /-- `pull` with K = 0 -/
  | pullCountZero
deriving DecidableEq, Repr

/-- The width of a seed literal, by kind (R58, R65). -/
def seedWidth : Kind → Nat
  | .mt => 32
  | .xs => 32
  | .pcg => 64
  | .bbs => 64

/-- One command at the port: the word of R60 and SEED_IN, with `entropy` on ENTROPY_IN. -/
def asmCommand (entropy : DWord) (op : Op) (kind : Kind) (inst : InstNum) (seedIn : Nat) :
    Except AsmError (List HostInput) :=
  match instrOf op kind inst with
  | none => .error .mtSeedNotOptional
  | some i => .ok [.command (encode i) (BitVec.ofNat 64 seedIn) entropy]

/-- `<kind>.seed` with a literal that must fit (R65). -/
def asmSeed (entropy : DWord) (kind : Kind) (inst : InstNum) (literal : Nat) : Except AsmError (List HostInput) :=
  if literal < 2 ^ seedWidth kind then asmCommand entropy .seed kind inst literal else .error .seedTooWide

/-- What a line presents at the port, with `entropy` on ENTROPY_IN throughout (R65, R66). SEED_IN is 0 where the command
ignores it. -/
def assemble (entropy : DWord) : AsmLine → Except AsmError (List HostInput)
  | .next kind inst => asmCommand entropy .next kind inst 0
  | .seed kind inst literal => asmSeed entropy kind inst literal
  | .seedd kind inst => asmCommand entropy .seedd kind inst 0
  | .construct kind inst none => asmCommand entropy .seedd kind inst 0
  | .construct kind inst (some literal) => asmSeed entropy kind inst literal
  | .pull _ _ 0 => .error .pullCountZero
  | .pull kind inst (k + 1) =>
    (asmCommand entropy .next kind inst 0).map fun c => (List.replicate (k + 1) c).flatten
  | .word w => .ok [.command w 0#64 entropy]

/-- The name of a kind in a mnemonic (R65). -/
def Kind.asmName : Kind → String
  | .mt => "mt"
  | .xs => "xs"
  | .pcg => "pcg"
  | .bbs => "bbs"

/-- The name of an operation in a mnemonic (R65). -/
def Op.asmName : Op → String
  | .next => "next"
  | .seed => "seed"
  | .seedd => "seedd"

/-- The mnemonic `<kind>.<op>` of a command (R65, spec/opcode_table.json). -/
def mnemonic (i : Instr) : String := Kind.asmName i.kind ++ "." ++ Op.asmName i.op

/-- One hexadecimal digit, upper case. -/
def hexDigit (n : Nat) : Char := if n < 10 then Char.ofNat (48 + n) else Char.ofNat (55 + n)

/-- `n` as `digits` hexadecimal digits, the most significant first. -/
def hexDigits : Nat → Nat → List Char
  | 0, _ => []
  | digits + 1, n => hexDigits digits (n / 16) ++ [hexDigit (n % 16)]

/-- A command as a listing shows it: `CMD=0x........ SEED_IN=0x................` (R65). Other inputs have no line. -/
def listing : HostInput → String
  | .command cmd seedIn _ =>
    "CMD=0x" ++ String.ofList (hexDigits 8 cmd.toNat) ++ " SEED_IN=0x" ++ String.ofList (hexDigits 16 seedIn.toNat)
  | .idle => ""
  | .reset => ""

end Sys2Proof.Machine
end

