-- ==== Sys2Proof/Safety.lean ====
section
/-! DEFINITION. What the outside can say of a run of the block: the observation of 70_reset_and_hazards.md R141, the
premise that no response is an error (60_exceptions.md R118), streams of pulls, the lifecycle of an instance (10_state.md
R27), and the invariant of the port. -/

namespace Sys2Proof.Machine

/-- A command as it was sampled at acceptance (R135). -/
structure Command where
  cmd : Word
  seedIn : DWord
  entropyIn : DWord
deriving DecidableEq, Repr

/-- A response: RSP_STATUS and RSP_DATA (R114). -/
structure Response where
  status : BitVec 2
  data : Word
deriving DecidableEq, Repr

/-- What one step from `s` to `t` shows: a command and its response, where the step completes a command (R141). Nothing is
shown by an acceptance, an idle step or a reset (R131, R136). -/
def observe (s t : State) : Option (Command × Response) :=
  if s.cmdReady = false ∧ t.rspValid = true then some (⟨s.cmd, s.seedIn, s.entropyIn⟩, ⟨t.rspStatus, t.rspData⟩)
  else none

/-- The observation of `n` steps from `s`: its (command, response) pairs in order (R141). -/
def trace : Nat → State → List (Command × Response)
  | 0, _ => []
  | n + 1, s =>
    match step s with
    | .next t => (observe s t).toList ++ trace n t
    | .fault _ => []
    | .refused _ => []

/-- What can be said of one instance number's engines: their contents where they are constructed. The contents of an
engine with con = 0 are unspecified (R37, R141), so the observation does not show them (log 22). -/
structure EnginesView where
  /-- st and idx of MT[i] -/
  mt : Option (Vector Word Config.mtN × Fin Config.mtN)
  xs : Option Word
  pcg : Option DWord
  bbs : Option (Fin Config.bbsN)
deriving DecidableEq, Repr

/-- The view of the engines of one instance number; `none` is con = 0. -/
def Engines.view (g : Engines) : EnginesView where
  mt := if g.mt.con then some (g.mt.st, g.mt.idx) else none
  xs := if g.xs.con then some g.xs.st else none
  pcg := if g.pcg.con then some g.pcg.st else none
  bbs := if g.bbs.con then some g.bbs.st else none

/-- The observation of a run: the ordered (command, response) pairs, "together with the final engine state" (R141,
92 D24). -/
structure RunObservation where
  pairs : List (Command × Response)
  engines : List EnginesView
deriving DecidableEq, Repr

/-- The input presents a command. -/
def HostInput.isCommand : HostInput → Bool
  | .command _ _ _ => true
  | .idle => false
  | .reset => false

/-- The run of the host program is over: the host has issued its last command (none is left to present) and has received
its response (none is in flight) (R141). The block itself does not stop. A last command that a reset discards gets no
response, and the run is then over at the reset (log 22). -/
def State.runEnded (s : State) : Bool := s.cmdReady && !s.host.any HostInput.isCommand

/-- A bound on the steps to the end of the run: two for each input left, and one for a command in flight. -/
def State.stepsToEnd (s : State) : Nat := 2 * s.host.length + if s.cmdReady then 0 else 1

/-- The observation of the run from `s`, which ends at the first state at which it is over (R141); `none` where that state
does not come within `n` steps. -/
def observeRun : Nat → State → Option RunObservation
  | 0, s => if s.runEnded then some ⟨[], s.insts.map Engines.view⟩ else none
  | n + 1, s =>
    if s.runEnded then some ⟨[], s.insts.map Engines.view⟩
    else match step s with
      | .next t => (observeRun n t).map fun o => { o with pairs := (observe s t).toList ++ o.pairs }
      | .fault _ => none
      | .refused _ => none

/-- The state after `n` steps, where they all answer a next state. -/
def stateAfter : Nat → State → Option State
  | 0, s => some s
  | n + 1, s =>
    match step s with
    | .next t => stateAfter n t
    | .fault _ => none
    | .refused _ => none

/-- The premise of R118 for a host that should see no error: every response has status OK. -/
def NoErrorResponse (observed : List (Command × Response)) : Prop :=
  ∀ p ∈ observed, p.2.status = okStatus

/-- The values that `n` commands `i` in a row return (a `<kind>.pull` of R66 where `i` is a NEXT). -/
def pullStream : Nat → Instr → State → List Word
  | 0, _, _ => []
  | n + 1, i, s =>
    match exec i s with
    | .next t => t.rspData :: pullStream n i t
    | .fault _ => []
    | .refused _ => []

/-- The constructed flag of one kind (R26). -/
def Engines.con (g : Engines) : Kind → Bool
  | .mt => g.mt.con
  | .xs => g.xs.con
  | .pcg => g.pcg.con
  | .bbs => g.bbs.con

/-- The constructed flag of the engine (kind, inst), if the part has it (R26). -/
def State.con (s : State) (kind : Kind) (inst : InstNum) : Option Bool :=
  (s.engines inst).map fun g => g.con kind

/-- The lifecycle of an instance as far as the state bits show it: Constructed and Advancing "differ only in history"
(R27). -/
inductive Lifecycle where
  | unconstructed
  | constructedOrAdvancing
deriving DecidableEq, Repr

/-- The lifecycle state that a constructed flag shows (R27). -/
def lifecycle (con : Bool) : Lifecycle := if con then .constructedOrAdvancing else .unconstructed

/-- The invariant of the port: NINST is legal (R12); a valid response means the block is ready (R136); a ready block
without a response is as reset left it, output registers 0 and nothing constructed (R29, R37); and a ready block with an
error status shows data 0 (R114). -/
structure PortInv (s : State) : Prop where
  ninst : ninstWf s.ninst = true
  validReady : s.rspValid = true → s.cmdReady = true
  resetStatus : s.cmdReady = true → s.rspValid = false → s.rspStatus = okStatus ∧ s.rspData = 0#32
  resetCon : s.cmdReady = true → s.rspValid = false → ∀ g ∈ s.insts, ∀ k, g.con k = false
  errorData : s.cmdReady = true → s.rspStatus ≠ okStatus → s.rspData = 0#32

end Sys2Proof.Machine
end

