-- ==== Sys2Proof/Certificates/Slice0/SpecForms.lean ====
section
/-! DEFINITION. The rules' formulas as spec/ writes them, over exact natural numbers (00_scope.md R17, R18), for the
statements of Obligations.lean. None of these is used by the machine. -/

namespace Sys2Proof.Spec

open Sys2Proof.Machine

/-- `trunc_N(v)` (R17). -/
def trunc (n v : Nat) : Nat := v % 2 ^ n

/-- The state after a response: the engine instances as given, the output registers and CMD_READY written, and every other
field as in `s` (R29, R136). -/
def answered (status : BitVec 2) (data : Word) (insts : List Engines) (s : State) : State :=
  { s with insts := insts, rspStatus := status, rspData := data, rspValid := true, cmdReady := true }

/-- The instances of `s` with entry `inst` replaced. -/
def replaced (s : State) (inst : InstNum) (g : Engines) : List Engines := s.insts.set inst.toNat g

/-- The recurrence of R70. -/
def mtSeedStep (p k : Nat) : Nat := trunc 32 (1812433253 * (p ^^^ (p >>> 30)) + k)

/-- `pair(cur, nxt)`, standard split (R72). -/
def mtPair (cur nxt : Nat) : Nat := (cur &&& 0x80000000) ||| (nxt &&& 0x7FFFFFFF)

/-- `twistA(x)` (R73). -/
def mtTwistA (x : Nat) : Nat := if x % 2 = 1 then (x >>> 1) ^^^ 0x9908B0DF else x >>> 1

/-- `temper(x)` (R74). -/
def mtTemper (x : Nat) : Nat :=
  let y := x ^^^ (x >>> 11)
  let y := y ^^^ ((y <<< 7) &&& 0x9D2C5680)
  let y := y ^^^ ((y <<< 15) &&& 0xEFC60000)
  trunc 32 (y ^^^ (y >>> 18))

/-- The word a pull at index k writes, with the indices in their other form (R75, R76). -/
def mtNewWord (st : Vector Word 624) (k : Fin 624) : Nat :=
  (st[(k.val + 397) % 624]'(Nat.mod_lt _ (by decide))).toNat ^^^
    mtTwistA (mtPair st[k.val].toNat (st[(k.val + 1) % 624]'(Nat.mod_lt _ (by decide))).toNat)

/-- The batch twist: all 624 words in index order (R77). -/
def mtBatchTwist (st : Vector Word 624) : Vector Word 624 :=
  (List.finRange 624).foldl (fun a k => a.set k.val (BitVec.ofNat 32 (mtNewWord a k))) st

/-- Output number t (from 0) of the batch form: a twist at every 624th pull, then the words tempered in order (R77). -/
def mtBatchOutput (st : Vector Word 624) (t : Nat) : Nat :=
  mtTemper ((mtBatchTwist^[t / 624 + 1] st)[t % 624]'(Nat.mod_lt _ (by decide))).toNat

/-- The three steps of R87. -/
def xsStep (s : Nat) : Nat :=
  let s := s ^^^ trunc 32 (s <<< 13)
  let s := s ^^^ (s >>> 17)
  s ^^^ trunc 32 (s <<< 5)

/-- `lcg(s)` (R96). -/
def pcgLcg (s : Nat) : Nat := trunc 64 (s * 6364136223846793005 + 1442695040888963407)

/-- `xsh(s)` with PCG_XSH_TRUNC = true (R97). -/
def pcgXsh (s : Nat) : Nat := trunc 32 (((s >>> 18) ^^^ s) >>> 27)

/-- `rotr32(x, r)`; `(−r) & 31` is `(32 − r) mod 32` (R18, R99). -/
def rotr32 (x r : Nat) : Nat := trunc 32 ((x >>> r) ||| (x <<< ((32 - r) % 32)))

/-- `sq(x)` (R107). -/
def bbsSq (x : Nat) : Nat := x * x % 272953

/-- The illegal words of R62, read off the number CMD. -/
def illegalWord (w ninst : Nat) : Prop :=
  w / 2 ^ 16 ≠ 0 ∨ w / 2 ^ 4 % 2 ^ 4 ≠ 0 ∨ w / 4 % 4 = 0 ∨ (w / 4 % 4 = 3 ∧ w % 4 = 0) ∨ ninst ≤ w / 2 ^ 8 % 2 ^ 8

/-- The state of one engine, of any kind. -/
inductive EngineState where
  | mt (e : MtEngine)
  | xs (e : XsEngine)
  | pcg (e : PcgEngine)
  | bbs (e : BbsEngine)

/-- The engine of a kind among those of one instance number. -/
def engine (g : Engines) : Kind → EngineState
  | .mt => .mt g.mt
  | .xs => .xs g.xs
  | .pcg => .pcg g.pcg
  | .bbs => .bbs g.bbs

/-- The engine (kind, inst) of a state, if the part has it. -/
def engineAt (s : State) (kind : Kind) (inst : InstNum) : Option EngineState :=
  (s.engines inst).map fun g => engine g kind

/-- A command together with the side operands sampled with it (R135). -/
structure Tuple where
  instr : Instr
  seedIn : DWord
  entropyIn : DWord

/-- The command names the engine (kind, inst). -/
def Tuple.names (kind : Kind) (inst : InstNum) (c : Tuple) : Bool := c.instr.kind = kind && c.instr.inst = inst

/-- The responses to the commands that name (kind, inst), along a sequence of commands (R47). -/
def responsesOf (kind : Kind) (inst : InstNum) : List Tuple → State → List Response
  | [], _ => []
  | c :: cs, s =>
    match exec c.instr { s with seedIn := c.seedIn, entropyIn := c.entropyIn } with
    | .next t =>
      if c.names kind inst then ⟨t.rspStatus, t.rspData⟩ :: responsesOf kind inst cs t else responsesOf kind inst cs t
    | .fault _ => []
    | .refused _ => []

/-- The commands of a host's list, in order, each with its side operands (R141). -/
def commandsOf : List HostInput → List Command
  | [] => []
  | .command c d e :: rest => ⟨c, d, e⟩ :: commandsOf rest
  | .idle :: rest => commandsOf rest
  | .reset :: rest => commandsOf rest

/-- The command in flight, if there is one (R136). -/
def inFlight (s : State) : List Command := if s.cmdReady then [] else [⟨s.cmd, s.seedIn, s.entropyIn⟩]

/-- The quadratic residues mod n of the numbers coprime to n, as BBS states (R113). -/
def quadraticResidues : Set (Fin 272953) := { y | ∃ x : Nat, x.Coprime 272953 ∧ y.val = x * x % 272953 }

/-- `i` constructs BBS instance `inst` from the seed `v` in the state `s`: a SEED from SEED_IN or a SEEDD from ENTROPY_IN
(R104, R105). -/
def bbsConstructs (i : Instr) (inst : InstNum) (s : State) (v : DWord) : Prop :=
  (i = .bbsSeed inst ∧ v = s.seedIn) ∨ (i = .bbsSeedd inst ∧ v = s.entropyIn)

end Sys2Proof.Spec
end

