-- ==== Sys2Proof/Certificates/Slice0/Obligations.lean ====
section
/-! DEFINITION. The statements for the provers. Each docstring names the rule of spec/ it comes from. -/

open Sys2Proof Sys2Proof.Machine

/-! ### Encoding (30_encoding.md) -/

/-- R67: the encoding examples, through the assembler of R65; and `pcg.next @3` decodes on a part with NINST ≥ 4. -/
def Obligations.EncodingExamplesAssembleAndDecode : Prop :=
  (∀ e : DWord,
    assemble e (.seed .mt 0 42) = .ok [.command 0x00000008#32 0x2A#64 e] ∧
    assemble e (.next .mt 0) = .ok [.command 0x00000004#32 0#64 e] ∧
    assemble e (.seed .xs 0 42) = .ok [.command 0x00000009#32 0x2A#64 e] ∧
    assemble e (.seedd .xs 0) = .ok [.command 0x0000000D#32 0#64 e] ∧
    assemble e (.next .xs 0) = .ok [.command 0x00000005#32 0#64 e] ∧
    assemble e (.seed .pcg 0 42) = .ok [.command 0x0000000A#32 0x2A#64 e] ∧
    assemble e (.seedd .pcg 0) = .ok [.command 0x0000000E#32 0#64 e] ∧
    assemble e (.next .pcg 0) = .ok [.command 0x00000006#32 0#64 e] ∧
    assemble e (.seed .bbs 0 42) = .ok [.command 0x0000000B#32 0x2A#64 e] ∧
    assemble e (.seedd .bbs 0) = .ok [.command 0x0000000F#32 0#64 e] ∧
    assemble e (.next .bbs 0) = .ok [.command 0x00000007#32 0#64 e] ∧
    assemble e (.next .pcg 3) = .ok [.command 0x00000306#32 0#64 e]) ∧
  (∀ n, 4 ≤ n → decode 0x00000306#32 n = .ok (.pcgNext 3))

/-- R61, on words written out from R60: each row of the opcode map decodes to its command. -/
def Obligations.OpcodeMapWordsDecode : Prop :=
  decode 0x00000004#32 1 = .ok (.mtNext 0) ∧ decode 0x00000108#32 2 = .ok (.mtSeed 1) ∧
  decode 0x00000005#32 1 = .ok (.xsNext 0) ∧ decode 0x00000209#32 3 = .ok (.xsSeed 2) ∧
  decode 0x0000000D#32 1 = .ok (.xsSeedd 0) ∧ decode 0x00000306#32 4 = .ok (.pcgNext 3) ∧
  decode 0x0000000A#32 1 = .ok (.pcgSeed 0) ∧ decode 0x0000000E#32 1 = .ok (.pcgSeedd 0) ∧
  decode 0x0000FF07#32 256 = .ok (.bbsNext 255) ∧ decode 0x0000000B#32 1 = .ok (.bbsSeed 0) ∧
  decode 0x0000000F#32 1 = .ok (.bbsSeedd 0)

/-- R68: words that are illegal under every NINST, and one that is illegal under NINST = 1. -/
def Obligations.WordsIllegalUnderEveryInstanceCount : Prop :=
  (∀ n, (decode 0x00000000#32 n).toOption = none ∧ (decode 0x0000000C#32 n).toOption = none ∧
    (decode 0x00000014#32 n).toOption = none ∧ (decode 0x00010004#32 n).toOption = none) ∧
  (decode 0x00000104#32 1).toOption = none

/-- R53, R60, R61: a word decodes to a command exactly when the command is legal on the part and encodes to that word. -/
def Obligations.DecodeAgreesWithEncode : Prop :=
  ∀ (w : Word) (n : Nat) (i : Instr), decode w n = .ok i ↔ i.inst.toNat < n ∧ encode i = w

/-- R62: which words are illegal, what an illegal word in flight is answered, and that 11 × NINST words are legal. -/
def Obligations.IllegalWordsAreExactlyTheListedOnes : Prop :=
  ∀ n, 1 ≤ n → n ≤ 256 →
    (∀ w : Word, (decode w n).toOption = none ↔ Spec.illegalWord w.toNat n) ∧
    (∀ s : State, s.ninst = n → s.rst = false → s.cmdReady = false → Spec.illegalWord s.cmd.toNat n →
      step s = .next (Spec.answered 0b01#2 0#32 s.insts s)) ∧
    Set.ncard { w : Word | ¬ Spec.illegalWord w.toNat n } = 11 * n

/-- R115 and R120: the four cases of ILLEGAL_COMMAND are checked in the order of the list, and each rejection has the name
of the first case that holds. -/
def Obligations.DecodeChecksInListedOrder : Prop :=
  ∀ (w : Word) (n : Nat),
    let c1 := w.toNat / 2 ^ 16 ≠ 0 ∨ w.toNat / 2 ^ 4 % 2 ^ 4 ≠ 0
    let c2 := w.toNat / 4 % 4 = 0
    let c3 := w.toNat / 4 % 4 = 3 ∧ w.toNat % 4 = 0
    let c4 := n ≤ w.toNat / 2 ^ 8 % 2 ^ 8
    (decode w n = .error .reservedBits ↔ c1) ∧
    (decode w n = .error .reservedOp ↔ ¬ c1 ∧ c2) ∧
    (decode w n = .error .mtHasNoSeedd ↔ ¬ c1 ∧ ¬ c2 ∧ c3) ∧
    (decode w n = .error .noSuchInstance ↔ ¬ c1 ∧ ¬ c2 ∧ ¬ c3 ∧ c4)

/-- R65, R66: for every instance, a next, a fitting seed and a seedd line present the command's word, with the literal (or
0) on SEED_IN; a seed literal is rejected exactly when it does not fit its kind's width, and `mt.seedd` always; a construct
is a seed or a seedd, a pull is K ≥ 1 copies of the NEXT, and `.word` presents its word. What ENTROPY_IN carries is an
argument, and SEED_IN = 0 beside `.word` is the model's choice (log 18). -/
def Obligations.AssemblerFollowsTheForms : Prop :=
  ∀ (e : DWord) (k : Kind) (a : InstNum) (v : Nat),
    let fits := v < 2 ^ (if k = .mt ∨ k = .xs then 32 else 64)
    (∀ i : Instr, i.kind = k → i.inst = a →
      (i.op = .next → assemble e (.next k a) = .ok [.command (encode i) 0#64 e]) ∧
      (i.op = .seed → fits →
        ∃ d : DWord, d.toNat = v ∧ assemble e (.seed k a v) = .ok [.command (encode i) d e]) ∧
      (i.op = .seedd → assemble e (.seedd k a) = .ok [.command (encode i) 0#64 e]) ∧
      (i.op = .next → 1 ≤ v → assemble e (.pull k a v) = .ok (List.replicate v (.command (encode i) 0#64 e)))) ∧
    (assemble e (.seed k a v) = .error .seedTooWide ↔ ¬ fits) ∧
    (assemble e (.seedd k a) = .error .mtSeedNotOptional ↔ k = .mt) ∧
    assemble e (.construct k a (some v)) = assemble e (.seed k a v) ∧
    assemble e (.construct k a none) = assemble e (.seedd k a) ∧
    assemble e (.pull k a 0) = .error .pullCountZero ∧
    (∀ w : Word, assemble e (.word w) = .ok [.command w 0#64 e])

/-- R41: an adapter's first beat is the lower half of the operand. -/
def Obligations.AdapterSendsTheLowHalfFirst : Prop :=
  ∀ first second : Word, (fromBeats first second).toNat = second.toNat * 2 ^ 32 + first.toNat

/-! ### The port, reset and the step (70_reset_and_hazards.md) -/

/-- R61, R69, R136: with a command in flight and no reset, the step runs the decoded command, and nothing is added to it. -/
def Obligations.StepRunsTheDecodedCommand : Prop :=
  ∀ (s : State) (i : Instr), s.rst = false → s.cmdReady = false → decode s.cmd s.ninst = .ok i → step s = exec i s

/-- R28, R135, R136 items 1 and 2: acceptance samples the tuple and clears CMD_READY and RSP_VALID; no engine changes.
RSP_STATUS and RSP_DATA, which R136 leaves unspecified here, are not constrained. -/
def Obligations.AcceptanceSamplesTheTuple : Prop :=
  ∀ (s : State) (c : Word) (d e : DWord) (rest : List HostInput),
    s.host = .command c d e :: rest → s.cmdReady = true →
    ∃ t, step s = .next t ∧ t.cmd = c ∧ t.seedIn = d ∧ t.entropyIn = e ∧ t.cmdReady = false ∧ t.rspValid = false ∧
      t.insts = s.insts ∧ t.host = rest

/-- R136 items 3 and 4, R140: a command in flight is answered by the next step that is no reset, whatever it is, and a
command that the outside presents meanwhile waits and is not lost. -/
def Obligations.InFlightCommandIsAnsweredAndOthersWait : Prop :=
  ∀ s : State, s.rst = false → s.cmdReady = false →
    ∃ t, step s = .next t ∧ t.rspValid = true ∧ t.cmdReady = true ∧ t.host = s.host ∧
      t.cmd = s.cmd ∧ t.seedIn = s.seedIn ∧ t.entropyIn = s.entropyIn ∧ t.ninst = s.ninst

/-- R114: a command that is accepted gets exactly one response, and it stands in the observation with the command it
answers. -/
def Obligations.AcceptedCommandGetsExactlyOneResponse : Prop :=
  ∀ (s : State) (c : Word) (d e : DWord) (rest : List HostInput),
    s.host = .command c d e :: rest → s.cmdReady = true → (∀ r, rest ≠ .reset :: r) →
    ∃ r : Response, trace 2 s = [(⟨c, d, e⟩, r)]

/-- R141: every run of a host program ends, at the first state at which its last command has been issued and answered; its
observation is the (command, response) pairs of the steps up to there, in order, with the final engine state. Where inputs
that are no command remain, or a reset discards the last command, the end is the model's choice (log 22). -/
def Obligations.EveryRunEndsWithItsPairsAndFinalEngines : Prop :=
  ∀ s : State, ∃ n t, n ≤ s.stepsToEnd ∧ stateAfter n s = some t ∧ t.runEnded = true ∧
    (∀ m, m < n → ∀ u, stateAfter m s = some u → u.runEnded = false) ∧
    observeRun s.stepsToEnd s = some ⟨trace n s, t.insts.map Engines.view⟩

/-- R141, R47, R114: the pairs of a run without a reset are the command in flight, if there is one, and then all the
commands the host presents, each once and in the order in which it presents them. -/
def Obligations.RunAnswersAllCommandsInOrder : Prop :=
  ∀ s : State, (∀ x ∈ s.host, x ≠ .reset) →
    ∃ o, observeRun s.stepsToEnd s = some o ∧ o.pairs.map Prod.fst = Spec.inFlight s ++ Spec.commandsOf s.host

/-- R130, R131: a reset leaves the reset state whatever was in flight, and the command in flight gives no response. The
engines' contents after it are unspecified and not constrained. -/
def Obligations.ResetDiscardsTheCommandInFlight : Prop :=
  ∀ (s : State) (rest : List HostInput), s.host = .reset :: rest →
    ∃ t, step s = .next t ∧ observe s t = none ∧ t.ninst = s.ninst ∧ (∀ g ∈ t.insts, ∀ k, g.con k = false) ∧
      t.rspValid = false ∧ t.rspStatus = 0b00#2 ∧ t.rspData = 0#32 ∧ t.cmdReady = true ∧ t.host = rest

/-- R129: between commands the block does nothing. -/
def Obligations.IdleBlockDoesNothing : Prop :=
  ∀ s : State, s.cmdReady = true →
    (s.host = [] → step s = .next s) ∧ (∀ rest, s.host = .idle :: rest → step s = .next { s with host := rest })

/-- R78, R140: every command answers a next state, and so does every step: nothing hangs, faults or is refused. -/
def Obligations.EveryCommandAndEveryStepFinishes : Prop :=
  (∀ (i : Instr) (s : State), ∃ t, exec i s = .next t) ∧ (∀ s : State, ∃ t, step s = .next t)

/-- R37, R130: the values the spec gives for reset, for every NINST. -/
def Obligations.ResetValues : Prop :=
  ∀ n, (State.resetWith n).ninst = n ∧ (∀ g ∈ (State.resetWith n).insts, ∀ k, g.con k = false) ∧
    (State.resetWith n).rspValid = false ∧ (State.resetWith n).rspStatus = 0b00#2 ∧
    (State.resetWith n).rspData = 0#32 ∧ (State.resetWith n).cmdReady = true

/-- The invariant of the port (R12, R29, R37, R114, R136) holds after reset on every legal part. -/
def Obligations.PortInvariantAtReset : Prop :=
  PortInv State.reset ∧ ∀ n, 1 ≤ n → n ≤ 256 → PortInv (State.resetWith n)

/-- The invariant of the port (R12, R29, R37, R114, R136) is kept by every step. -/
def Obligations.EveryStepKeepsThePortInvariant : Prop :=
  ∀ s t : State, PortInv s → step s = .next t → PortInv t

/-! ### Isolation, determinism and errors (10_state.md, 60_exceptions.md) -/

/-- R36 (writes), R2: a command changes no other instance of its kind, no instance of another kind, not NINST, and none of
the input registers. -/
def Obligations.CommandWritesOnlyTheNamedEngine : Prop :=
  ∀ (i : Instr) (s t : State), exec i s = .next t →
    t.ninst = s.ninst ∧
    (∀ k j, (k ≠ i.kind ∨ j ≠ i.inst) → Spec.engineAt t k j = Spec.engineAt s k j) ∧
    t.cmd = s.cmd ∧ t.seedIn = s.seedIn ∧ t.entropyIn = s.entropyIn ∧ t.host = s.host ∧ t.freeCount = s.freeCount

/-- R36 (reads), 92 D22: the response and the named engine afterwards depend only on the named engine, and on SEED_IN for
a SEED and ENTROPY_IN for a SEEDD. -/
def Obligations.CommandReadsOnlyTheNamedEngineAndItsOperand : Prop :=
  ∀ (i : Instr) (s t s' t' : State),
    Spec.engineAt s i.kind i.inst = Spec.engineAt t i.kind i.inst →
    (i.op = .seed → s.seedIn = t.seedIn) → (i.op = .seedd → s.entropyIn = t.entropyIn) →
    exec i s = .next s' → exec i t = .next t' →
    s'.rspStatus = t'.rspStatus ∧ s'.rspData = t'.rspData ∧
      Spec.engineAt s' i.kind i.inst = Spec.engineAt t' i.kind i.inst

/-- R36, R48: the responses of one instance in any sequence of commands are those it gives when every command to another
instance is taken out: interleaving changes no stream. -/
def Obligations.InterleavingChangesNoStream : Prop :=
  ∀ (k : Kind) (a : InstNum) (cs : List Spec.Tuple) (s : State),
    Spec.responsesOf k a cs s = Spec.responsesOf k a (cs.filter (Spec.Tuple.names k a)) s

/-- R79, R91, and the same for PCG and BBS: two instances constructed with the same seed return the same sequence, pull
for pull, whatever else their states hold. -/
def Obligations.SameSeedSameSequence : Prop :=
  ∀ (i j p q : Instr) (s t s' t' : State),
    i.op = .seed → j.op = .seed → j.kind = i.kind →
    p.op = .next → p.kind = i.kind → p.inst = i.inst → q.op = .next → q.kind = i.kind → q.inst = j.inst →
    s.seedIn = t.seedIn → exec i s = .next s' → exec j t = .next t' →
    s'.rspStatus = 0b00#2 → t'.rspStatus = 0b00#2 →
    ∀ n, pullStream n p s' = pullStream n q t'

/-- R45: a SEED issued twice with the same operand leaves the state that one leaves. -/
def Obligations.SeedIsIdempotent : Prop :=
  ∀ (i : Instr) (s t u : State), i.op = .seed → exec i s = .next t → exec i t = .next u → u = t

/-- R118: a response with an error status changes nothing but the output registers, and the block is ready for the next
command. -/
def Obligations.ErrorResponseChangesOnlyTheOutputs : Prop :=
  ∀ s t : State, s.rst = false → s.cmdReady = false → step s = .next t → t.rspStatus ≠ 0b00#2 →
    t = Spec.answered t.rspStatus 0#32 s.insts s

/-- R114, R116, R117, R120: the status of a response, by the first check that fails. -/
def Obligations.StatusIsTheFirstFailingCheck : Prop :=
  ∀ s t : State, s.rst = false → s.cmdReady = false → step s = .next t →
    (∀ e, decode s.cmd s.ninst = .error e → t.rspStatus = 0b01#2) ∧
    (∀ i, decode s.cmd s.ninst = .ok i →
      (i.op = .seed → t.rspStatus =
        if (i.kind = .mt ∨ i.kind = .xs) ∧ 2 ^ 32 ≤ s.seedIn.toNat then 0b10#2 else 0b00#2) ∧
      (i.op = .next → t.rspStatus = if s.con i.kind i.inst = some true then 0b00#2 else 0b11#2) ∧
      (i.op = .seedd → t.rspStatus = 0b00#2))

/-- R26: a command writes a constructed flag only where it is a SEED or SEEDD that succeeds on that instance, and then
sets it to 1. -/
def Obligations.OnlyASuccessfulConstructSetsTheFlag : Prop :=
  ∀ (i : Instr) (s t : State) (k : Kind) (j : InstNum), exec i s = .next t →
    t.con k j = if i.op ≠ .next ∧ i.kind = k ∧ i.inst = j ∧ t.rspStatus = 0b00#2 then some true else s.con k j

/-- THE MODEL'S CHOICE (log 19): `exec` itself answers ILLEGAL_COMMAND for an instance the part does not have. The spec has
decoding raise that error, so a decoded command never comes to this; it makes the meanings total. -/
def Obligations.MissingInstanceIsIllegalCommand : Prop :=
  ∀ (i : Instr) (s : State), s.ninst ≤ i.inst.toNat → exec i s = .next (Spec.answered 0b01#2 0#32 s.insts s)

/-- R117: every NEXT on an instance that is not constructed is answered UNSEEDED. -/
def Obligations.NextOnUnconstructedInstanceIsUnseeded : Prop :=
  ∀ (i : Instr) (s : State), i.op = .next → s.con i.kind i.inst = some false →
    exec i s = .next (Spec.answered 0b11#2 0#32 s.insts s)

/-- R116: MT.SEED and XS.SEED with SEED_IN[63:32] ≠ 0 are answered ILLEGAL_OPERAND. -/
def Obligations.WideMtAndXsSeedsAreIllegalOperands : Prop :=
  ∀ (inst : InstNum) (s : State), inst.toNat < s.ninst → 2 ^ 32 ≤ s.seedIn.toNat →
    exec (.mtSeed inst) s = .next (Spec.answered 0b10#2 0#32 s.insts s) ∧
    exec (.xsSeed inst) s = .next (Spec.answered 0b10#2 0#32 s.insts s)

/-! ### MT19937 (40_mt19937.md) -/

/-- R70: MT.SEED with a 32-bit seed completes; word 0 is the seed, each later word follows by the recurrence, the index is
0, the flag is set, the response is OK with data 0, and nothing else changes. -/
def Obligations.MtSeedConstructsTheArray : Prop :=
  ∀ (inst : InstNum) (s : State) (g : Engines), s.engines inst = some g → s.seedIn.toNat < 2 ^ 32 →
    ∃ e : MtEngine,
      exec (.mtSeed inst) s = .next (Spec.answered 0b00#2 0#32 (Spec.replaced s inst { g with mt := e }) s) ∧
      e.con = true ∧ e.idx = 0 ∧ e.st[0].toNat = s.seedIn.toNat ∧
      ∀ k (h : k < 623), (e.st[k + 1]'(Nat.succ_lt_succ h)).toNat =
        Spec.mtSeedStep (e.st[k]'(Nat.lt_succ_of_lt h)).toNat (k + 1)

/-- R75: MT.NEXT on a constructed instance completes; word k becomes the twisted word, the index moves on mod 624, the
response is the tempered new word, and nothing else changes. The pair is the standard split, the spec's own resolution of
the source's conflict (R15, 90_conflicts.md C1, log 2). -/
def Obligations.MtNextTwistsAndTempersOneWord : Prop :=
  ∀ (inst : InstNum) (s : State) (g : Engines), s.engines inst = some g → g.mt.con = true →
    exec (.mtNext inst) s =
      .next (Spec.answered 0b00#2 (BitVec.ofNat 32 (Spec.mtTemper (Spec.mtNewWord g.mt.st g.mt.idx)))
        (Spec.replaced s inst { g with mt :=
          { st := g.mt.st.set g.mt.idx.val (BitVec.ofNat 32 (Spec.mtNewWord g.mt.st g.mt.idx)),
            idx := ⟨(g.mt.idx.val + 1) % 624, Nat.mod_lt _ (by decide)⟩, con := true } }) s)

/-- R72: what the two readings of the pair take from the two words. -/
def Obligations.PairSplitsTheWordsAsTheReadingSays : Prop :=
  ∀ cur nxt : Word,
    (mtPair .standard cur nxt).toNat = cur.toNat / 2 ^ 31 * 2 ^ 31 + nxt.toNat % 2 ^ 31 ∧
    (mtPair .literal cur nxt).toNat = cur.toNat / 2 * 2 + nxt.toNat % 2

/-- R80: temper is a bijection on 32-bit words, and 0 is the only word that tempers to 0. -/
def Obligations.TemperIsABijection : Prop :=
  Function.Bijective mtTemper ∧ ∀ x : Word, mtTemper x = 0#32 ↔ x = 0#32

/-- R81: after MT.SEED the array is never all zero: st[1] = 1 for seed 0, and st[0] ≠ 0 for any other seed. -/
def Obligations.SeededArrayIsNeverAllZero : Prop :=
  ∀ (inst : InstNum) (s t : State) (g : Engines), s.seedIn.toNat < 2 ^ 32 →
    exec (.mtSeed inst) s = .next t → t.engines inst = some g →
    (s.seedIn = 0#64 → g.mt.st[1] = 1#32) ∧ (s.seedIn ≠ 0#64 → g.mt.st[0] ≠ 0#32) ∧ ∃ k : Fin 624, g.mt.st[k.val] ≠ 0#32

/-- R77: the on-demand stream of an instance at index 0 is that of the batch form, at every pull. Both
forms take the standard split (R15, log 2). -/
def Obligations.OnDemandStreamIsTheBatchStream : Prop :=
  ∀ (inst : InstNum) (s : State) (g : Engines), s.engines inst = some g → g.mt.con = true → g.mt.idx = 0 →
    ∀ n, (pullStream n (.mtNext inst) s).map BitVec.toNat = (List.range n).map (Spec.mtBatchOutput g.mt.st)

/-! ### Xorshift32 (41_xorshift32.md) -/

/-- R85: XS.SEED with a 32-bit seed completes, and the seed is the state. -/
def Obligations.XsSeedStoresTheSeed : Prop :=
  ∀ (inst : InstNum) (s : State) (g : Engines), s.engines inst = some g → s.seedIn.toNat < 2 ^ 32 →
    exec (.xsSeed inst) s = .next (Spec.answered 0b00#2 0#32
      (Spec.replaced s inst { g with xs := { st := BitVec.ofNat 32 s.seedIn.toNat, con := true } }) s)

/-- R86, R59: XS.SEEDD completes on every draw, and ENTROPY_IN[31:0] is the state. -/
def Obligations.XsSeeddStoresTheLowDraw : Prop :=
  ∀ (inst : InstNum) (s : State) (g : Engines), s.engines inst = some g →
    exec (.xsSeedd inst) s = .next (Spec.answered 0b00#2 0#32
      (Spec.replaced s inst { g with xs := { st := BitVec.ofNat 32 (s.entropyIn.toNat % 2 ^ 32), con := true } }) s)

/-- R87: XS.NEXT on a constructed instance completes; the three shift-xor steps give the new state, which is returned. -/
def Obligations.XsNextShiftsAndXors : Prop :=
  ∀ (inst : InstNum) (s : State) (g : Engines), s.engines inst = some g → g.xs.con = true →
    exec (.xsNext inst) s = .next (Spec.answered 0b00#2 (BitVec.ofNat 32 (Spec.xsStep g.xs.st.toNat))
      (Spec.replaced s inst { g with xs := { st := BitVec.ofNat 32 (Spec.xsStep g.xs.st.toNat), con := true } }) s)

/-- R89: from state 0 every later pull returns 0 and leaves the state 0. -/
def Obligations.XsZeroIsAFixedPoint : Prop :=
  ∀ (inst : InstNum) (s : State) (g : Engines), s.engines inst = some g → g.xs.con = true → g.xs.st = 0#32 →
    (∀ n, pullStream n (.xsNext inst) s = List.replicate n 0#32) ∧
    (∃ t g', exec (.xsNext inst) s = .next t ∧ t.engines inst = some g' ∧ g'.xs.st = 0#32)

/-- R90: a nonzero state gives nonzero outputs at every pull, and never becomes zero. -/
def Obligations.XsNonzeroStateNeverReturnsZero : Prop :=
  (∀ s : Word, s ≠ 0#32 → xsStep s ≠ 0#32) ∧
  ∀ (inst : InstNum) (s : State) (g : Engines), s.engines inst = some g → g.xs.con = true → g.xs.st ≠ 0#32 →
    ∀ n, (pullStream n (.xsNext inst) s).length = n ∧ ∀ v ∈ pullStream n (.xsNext inst) s, v ≠ 0#32

/-! ### PCG32 (42_pcg32.md) -/

/-- R93: PCG.SEED completes on every 64-bit seed, and the seed is the state. -/
def Obligations.PcgSeedStoresTheSeed : Prop :=
  ∀ (inst : InstNum) (s : State) (g : Engines), s.engines inst = some g →
    exec (.pcgSeed inst) s = .next (Spec.answered 0b00#2 0#32
      (Spec.replaced s inst { g with pcg := { st := s.seedIn, con := true } }) s)

/-- R94, R59: PCG.SEEDD completes on every draw, and ENTROPY_IN is the state. -/
def Obligations.PcgSeeddStoresTheDraw : Prop :=
  ∀ (inst : InstNum) (s : State) (g : Engines), s.engines inst = some g →
    exec (.pcgSeedd inst) s = .next (Spec.answered 0b00#2 0#32
      (Spec.replaced s inst { g with pcg := { st := s.entropyIn, con := true } }) s)

/-- R95 to R101: PCG.NEXT on a constructed instance completes; the state advances by the LCG mod 2^64, and the output is
the rotated xorshift of the advanced state. The output rests on PCG_XSH_TRUNC = true, the spec's own resolution of the
source's conflict (R16, 90_conflicts.md C3, 92 D15, log 3); the state does not. -/
def Obligations.PcgNextAdvancesThenPermutes : Prop :=
  ∀ (inst : InstNum) (s : State) (g : Engines), s.engines inst = some g → g.pcg.con = true →
    exec (.pcgNext inst) s = .next (Spec.answered 0b00#2
      (BitVec.ofNat 32 (Spec.rotr32 (Spec.pcgXsh (Spec.pcgLcg g.pcg.st.toNat)) (Spec.pcgLcg g.pcg.st.toNat >>> 59)))
      (Spec.replaced s inst { g with pcg := { st := BitVec.ofNat 64 (Spec.pcgLcg g.pcg.st.toNat), con := true } }) s)

/-- R102: the state advance is a bijection on 64-bit values; the multiplier is 1 mod 4 and the increment is odd. -/
def Obligations.PcgAdvanceIsABijection : Prop :=
  Function.Bijective pcgLcg ∧ pcgMult.toNat % 4 = 1 ∧ pcgInc.toNat % 2 = 1

/-- R99: the rotation is the formula of R18; at rotation 0 it truncates; on a 32-bit value it is the right rotation. -/
def Obligations.RotationIsTheRightRotation : Prop :=
  (∀ r : BitVec 5, (-r).toNat = (32 - r.toNat) % 32) ∧
  (∀ (x : DWord) (r : BitVec 5), x.toNat < 2 ^ 37 → (rotr32 x r).toNat = Spec.rotr32 x.toNat r.toNat) ∧
  (∀ x : DWord, rotr32 x 0#5 = x.setWidth 32) ∧
  (∀ (x : Word) (r : BitVec 5), rotr32 (x.setWidth 64) r = x.rotateRight r.toNat)

/-- R103: where the rotation amount is 0, the two readings of PCG_XSH_TRUNC give the same output; from st = 42 they do
not. -/
def Obligations.TruncationReadingsAgreeAtRotationZero : Prop :=
  (∀ s : DWord, pcgRot s = 0#5 → pcgPermute true s = pcgPermute false s) ∧
  pcgPermute true (pcgLcg 42#64) = 1971522493#32 ∧ pcgPermute false (pcgLcg 42#64) = 1971817405#32

/-! ### Blum Blum Shub (43_bbs.md) -/

/-- R104: BBS.SEED completes on every 64-bit seed, and the exact square mod n is the state. -/
def Obligations.BbsSeedStoresTheSquare : Prop :=
  ∀ (inst : InstNum) (s : State) (g : Engines), s.engines inst = some g →
    ∃ x : Fin 272953, x.val = s.seedIn.toNat * s.seedIn.toNat % 272953 ∧
      exec (.bbsSeed inst) s = .next (Spec.answered 0b00#2 0#32
        (Spec.replaced s inst { g with bbs := { st := x, con := true } }) s)

/-- R105, R59: BBS.SEEDD completes on every draw, and the exact square of ENTROPY_IN mod n is the state. -/
def Obligations.BbsSeeddStoresTheSquaredDraw : Prop :=
  ∀ (inst : InstNum) (s : State) (g : Engines), s.engines inst = some g →
    ∃ x : Fin 272953, x.val = s.entropyIn.toNat * s.entropyIn.toNat % 272953 ∧
      exec (.bbsSeedd inst) s = .next (Spec.answered 0b00#2 0#32
        (Spec.replaced s inst { g with bbs := { st := x, con := true } }) s)

/-- R108, R109: BBS.NEXT on a constructed instance completes; the square mod n is the new state, and the whole residue is
returned. -/
def Obligations.BbsNextSquaresTheResidue : Prop :=
  ∀ (inst : InstNum) (s : State) (g : Engines), s.engines inst = some g → g.bbs.con = true →
    ∃ (x : Fin 272953) (v : Word), x.val = Spec.bbsSq g.bbs.st.val ∧ v.toNat = x.val ∧
      exec (.bbsNext inst) s = .next (Spec.answered 0b00#2 v
        (Spec.replaced s inst { g with bbs := { st := x, con := true } }) s)

/-- R106: squaring the reduced seed gives the state that the unreduced seed gives. -/
def Obligations.BbsSeedReductionIsExact : Prop :=
  ∀ s : Nat, s * s % 272953 = (s % 272953) * (s % 272953) % 272953 ∧ bbsSquare s = bbsSquare (s % 272953)

/-- R110: the fixed points of the square are exactly four; a state that is one of them stays there; a seed that is 0, or 1
or −1, mod n gives 0, or 1. -/
def Obligations.BbsFixedPointsAreExactlyFour : Prop :=
  (∀ x : Fin 272953, bbsSquare x.val = x ↔ x.val = 0 ∨ x.val = 1 ∨ x.val = 28444 ∨ x.val = 244510) ∧
  (28444 % 499 = 1 ∧ 28444 % 547 = 0 ∧ 244510 % 499 = 0 ∧ 244510 % 547 = 1) ∧
  (∀ (inst : InstNum) (s : State) (g : Engines), s.engines inst = some g → g.bbs.con = true →
    bbsSquare g.bbs.st.val = g.bbs.st →
    ∀ n, pullStream n (.bbsNext inst) s = List.replicate n (BitVec.ofNat 32 g.bbs.st.val)) ∧
  (∀ v : DWord, (v.toNat % 272953 = 0 → (bbsConstructed v).st.val = 0) ∧
    (v.toNat % 272953 = 1 ∨ v.toNat % 272953 = 272952 → (bbsConstructed v).st.val = 1))

/-- R111: after a construct the state is 0 exactly when the seed is 0 mod n, and so is every value that BBS.NEXT then returns
(each is the new state, R108); where one prime factor of n divides the seed and the other does not, the constructed state
and every later one is a multiple of the one, not of the other, and nonzero. -/
def Obligations.BbsSharedFactorNeverReachesZero : Prop :=
  ∀ (i : Instr) (inst : InstNum) (s t : State) (v : DWord),
    inst.toNat < s.ninst → Spec.bbsConstructs i inst s v → exec i s = .next t →
    ∃ g, t.engines inst = some g ∧ g.bbs.con = true ∧
      (g.bbs.st.val = 0 ↔ v.toNat % 272953 = 0) ∧
      (∀ n, (pullStream n (.bbsNext inst) t).length = n ∧
        ∀ y ∈ pullStream n (.bbsNext inst) t, y = 0#32 ↔ v.toNat % 272953 = 0) ∧
      (∀ p q, (p = 499 ∧ q = 547 ∨ p = 547 ∧ q = 499) → v.toNat % p = 0 → v.toNat % q ≠ 0 →
        (g.bbs.st.val % p = 0 ∧ g.bbs.st.val % q ≠ 0 ∧ g.bbs.st.val ≠ 0) ∧
        ∀ n, ∀ y ∈ pullStream n (.bbsNext inst) t, y.toNat % p = 0 ∧ y.toNat % q ≠ 0 ∧ y ≠ 0#32)

/-- R113: the machine's square permutes the quadratic residues of numbers coprime to n; and after a construct from a seed
coprime to n, the values that BBS.NEXT returns run through a cycle of distinct residues that ends with the constructed
state, and repeat it for ever. From seed 42 the cycle is 246 pulls long and ends with 1764. -/
def Obligations.BbsSquarePermutesQuadraticResidues : Prop :=
  Set.BijOn (fun x : Fin 272953 => bbsSquare x.val) Spec.quadraticResidues Spec.quadraticResidues ∧
  ∀ (i : Instr) (inst : InstNum) (s t : State) (v : DWord),
    inst.toNat < s.ninst → Spec.bbsConstructs i inst s v → exec i s = .next t → v.toNat.Coprime 272953 →
    ∃ g k, t.engines inst = some g ∧ g.bbs.st ∈ Spec.quadraticResidues ∧ 0 < k ∧
      (pullStream k (.bbsNext inst) t).getLast? = some (BitVec.ofNat 32 g.bbs.st.val) ∧
      (pullStream k (.bbsNext inst) t).Nodup ∧
      (∀ n, pullStream (k + n) (.bbsNext inst) t = pullStream k (.bbsNext inst) t ++ pullStream n (.bbsNext inst) t) ∧
      (v = 42#64 → k = 246 ∧ g.bbs.st.val = 1764)
end

