-- ==== Sys2Proof/Laws/Decode.lean ====
section
/-! SUPPORT. The fields of an encoded command, one lemma per field of the format C (30_encoding.md R53). -/

namespace Sys2Proof

theorem engField_encode (i : Instr) : engField (encode i) = kindField i.kind := by
  unfold engField encode
  ext j hj
  simp only [BitVec.getElem_extractLsb', BitVec.getLsbD_append]
  simp [hj]

theorem opField_encode (i : Instr) : opField (encode i) = opBits i.op := by
  unfold opField encode
  ext j hj
  simp only [BitVec.getElem_extractLsb', BitVec.getLsbD_append]
  have h1 : ¬ 2 + j < 2 := by omega
  have h2 : 2 + j - 2 = j := by omega
  simp [h1, h2, hj]

theorem instField_encode (i : Instr) : instField (encode i) = i.inst := by
  unfold instField encode
  ext j hj
  simp only [BitVec.getElem_extractLsb', BitVec.getLsbD_append]
  have h1 : ¬ 8 + j < 2 := by omega
  have h2 : ¬ 8 + j - 2 < 2 := by omega
  have h3 : ¬ 8 + j - 2 - 2 < 4 := by omega
  have h4 : 8 + j - 2 - 2 - 4 = j := by omega
  simp [h1, h2, h3, h4, hj]

theorem kindOfField_kindField (k : Kind) : kindOfField (kindField k) = k := by cases k <;> rfl

theorem opOfField_opBits (o : Op) : opOfField (opBits o) = some o := by cases o <;> rfl

theorem instrOf_fields (i : Instr) : instrOf i.op i.kind i.inst = some i := by cases i <;> rfl

end Sys2Proof
end

