-- ==== Sys2Proof/Laws/State.lean ====
section
/-! SUPPORT. One lemma per field of State per named update, so that no proof unfolds a record update, and the same for
the two readers `ninst` and `engines`. -/

namespace Sys2Proof.Machine

@[simp] theorem writeResponse_insts (st : BitVec 2) (v : Word) (s : State) : (writeResponse st v s).insts = s.insts := rfl
@[simp] theorem writeResponse_cmdReady (st : BitVec 2) (v : Word) (s : State) : (writeResponse st v s).cmdReady = true := rfl
@[simp] theorem writeResponse_cmd (st : BitVec 2) (v : Word) (s : State) : (writeResponse st v s).cmd = s.cmd := rfl
@[simp] theorem writeResponse_seedIn (st : BitVec 2) (v : Word) (s : State) : (writeResponse st v s).seedIn = s.seedIn := rfl
@[simp] theorem writeResponse_entropyIn (st : BitVec 2) (v : Word) (s : State) : (writeResponse st v s).entropyIn = s.entropyIn := rfl
@[simp] theorem writeResponse_rspStatus (st : BitVec 2) (v : Word) (s : State) : (writeResponse st v s).rspStatus = st := rfl
@[simp] theorem writeResponse_rspData (st : BitVec 2) (v : Word) (s : State) : (writeResponse st v s).rspData = v := rfl
@[simp] theorem writeResponse_rspValid (st : BitVec 2) (v : Word) (s : State) : (writeResponse st v s).rspValid = true := rfl
@[simp] theorem writeResponse_host (st : BitVec 2) (v : Word) (s : State) : (writeResponse st v s).host = s.host := rfl
@[simp] theorem writeResponse_freeCount (st : BitVec 2) (v : Word) (s : State) : (writeResponse st v s).freeCount = s.freeCount := rfl
@[simp] theorem writeResponse_ninst (st : BitVec 2) (v : Word) (s : State) : (writeResponse st v s).ninst = s.ninst := rfl
@[simp] theorem writeResponse_engines (st : BitVec 2) (v : Word) (s : State) (j : InstNum) :
    (writeResponse st v s).engines j = s.engines j := rfl

@[simp] theorem respond_insts (v : Word) (s : State) : (respond v s).insts = s.insts := rfl
@[simp] theorem respond_cmdReady (v : Word) (s : State) : (respond v s).cmdReady = true := rfl
@[simp] theorem respond_cmd (v : Word) (s : State) : (respond v s).cmd = s.cmd := rfl
@[simp] theorem respond_seedIn (v : Word) (s : State) : (respond v s).seedIn = s.seedIn := rfl
@[simp] theorem respond_entropyIn (v : Word) (s : State) : (respond v s).entropyIn = s.entropyIn := rfl
@[simp] theorem respond_rspStatus (v : Word) (s : State) : (respond v s).rspStatus = okStatus := rfl
@[simp] theorem respond_rspData (v : Word) (s : State) : (respond v s).rspData = v := rfl
@[simp] theorem respond_rspValid (v : Word) (s : State) : (respond v s).rspValid = true := rfl
@[simp] theorem respond_host (v : Word) (s : State) : (respond v s).host = s.host := rfl
@[simp] theorem respond_freeCount (v : Word) (s : State) : (respond v s).freeCount = s.freeCount := rfl
@[simp] theorem respond_ninst (v : Word) (s : State) : (respond v s).ninst = s.ninst := rfl
@[simp] theorem respond_engines (v : Word) (s : State) (j : InstNum) :
    (respond v s).engines j = s.engines j := rfl

@[simp] theorem raise_insts (e : CommandError) (s : State) : (raise e s).insts = s.insts := rfl
@[simp] theorem raise_cmdReady (e : CommandError) (s : State) : (raise e s).cmdReady = true := rfl
@[simp] theorem raise_cmd (e : CommandError) (s : State) : (raise e s).cmd = s.cmd := rfl
@[simp] theorem raise_seedIn (e : CommandError) (s : State) : (raise e s).seedIn = s.seedIn := rfl
@[simp] theorem raise_entropyIn (e : CommandError) (s : State) : (raise e s).entropyIn = s.entropyIn := rfl
@[simp] theorem raise_rspStatus (e : CommandError) (s : State) : (raise e s).rspStatus = e.status := rfl
@[simp] theorem raise_rspData (e : CommandError) (s : State) : (raise e s).rspData = 0#32 := rfl
@[simp] theorem raise_rspValid (e : CommandError) (s : State) : (raise e s).rspValid = true := rfl
@[simp] theorem raise_host (e : CommandError) (s : State) : (raise e s).host = s.host := rfl
@[simp] theorem raise_freeCount (e : CommandError) (s : State) : (raise e s).freeCount = s.freeCount := rfl
@[simp] theorem raise_ninst (e : CommandError) (s : State) : (raise e s).ninst = s.ninst := rfl
@[simp] theorem raise_engines (e : CommandError) (s : State) (j : InstNum) :
    (raise e s).engines j = s.engines j := rfl

@[simp] theorem setEngines_insts (s : State) (inst : InstNum) (g : Engines) : (s.setEngines inst g).insts = s.insts.set inst.toNat g := rfl
@[simp] theorem setEngines_cmdReady (s : State) (inst : InstNum) (g : Engines) : (s.setEngines inst g).cmdReady = s.cmdReady := rfl
@[simp] theorem setEngines_cmd (s : State) (inst : InstNum) (g : Engines) : (s.setEngines inst g).cmd = s.cmd := rfl
@[simp] theorem setEngines_seedIn (s : State) (inst : InstNum) (g : Engines) : (s.setEngines inst g).seedIn = s.seedIn := rfl
@[simp] theorem setEngines_entropyIn (s : State) (inst : InstNum) (g : Engines) : (s.setEngines inst g).entropyIn = s.entropyIn := rfl
@[simp] theorem setEngines_rspStatus (s : State) (inst : InstNum) (g : Engines) : (s.setEngines inst g).rspStatus = s.rspStatus := rfl
@[simp] theorem setEngines_rspData (s : State) (inst : InstNum) (g : Engines) : (s.setEngines inst g).rspData = s.rspData := rfl
@[simp] theorem setEngines_rspValid (s : State) (inst : InstNum) (g : Engines) : (s.setEngines inst g).rspValid = s.rspValid := rfl
@[simp] theorem setEngines_host (s : State) (inst : InstNum) (g : Engines) : (s.setEngines inst g).host = s.host := rfl
@[simp] theorem setEngines_freeCount (s : State) (inst : InstNum) (g : Engines) : (s.setEngines inst g).freeCount = s.freeCount := rfl

@[simp] theorem acceptCommand_insts (c : Word) (d e : DWord) (rest : List HostInput) (s : State) : (acceptCommand c d e rest s).insts = s.insts := rfl
@[simp] theorem acceptCommand_cmdReady (c : Word) (d e : DWord) (rest : List HostInput) (s : State) : (acceptCommand c d e rest s).cmdReady = false := rfl
@[simp] theorem acceptCommand_cmd (c : Word) (d e : DWord) (rest : List HostInput) (s : State) : (acceptCommand c d e rest s).cmd = c := rfl
@[simp] theorem acceptCommand_seedIn (c : Word) (d e : DWord) (rest : List HostInput) (s : State) : (acceptCommand c d e rest s).seedIn = d := rfl
@[simp] theorem acceptCommand_entropyIn (c : Word) (d e : DWord) (rest : List HostInput) (s : State) : (acceptCommand c d e rest s).entropyIn = e := rfl
@[simp] theorem acceptCommand_rspStatus (c : Word) (d e : DWord) (rest : List HostInput) (s : State) : (acceptCommand c d e rest s).rspStatus = Config.freeStatus s.freeCount := rfl
@[simp] theorem acceptCommand_rspData (c : Word) (d e : DWord) (rest : List HostInput) (s : State) : (acceptCommand c d e rest s).rspData = Config.freeData s.freeCount := rfl
@[simp] theorem acceptCommand_rspValid (c : Word) (d e : DWord) (rest : List HostInput) (s : State) : (acceptCommand c d e rest s).rspValid = false := rfl
@[simp] theorem acceptCommand_host (c : Word) (d e : DWord) (rest : List HostInput) (s : State) : (acceptCommand c d e rest s).host = rest := rfl
@[simp] theorem acceptCommand_freeCount (c : Word) (d e : DWord) (rest : List HostInput) (s : State) : (acceptCommand c d e rest s).freeCount = s.freeCount + 1 := rfl
@[simp] theorem acceptCommand_ninst (c : Word) (d e : DWord) (rest : List HostInput) (s : State) : (acceptCommand c d e rest s).ninst = s.ninst := rfl
@[simp] theorem acceptCommand_engines (c : Word) (d e : DWord) (rest : List HostInput) (s : State) (j : InstNum) :
    (acceptCommand c d e rest s).engines j = s.engines j := rfl

@[simp] theorem applyReset_insts (rest : List HostInput) (s : State) : (applyReset rest s).insts = List.replicate s.ninst Engines.reset := rfl
@[simp] theorem applyReset_cmdReady (rest : List HostInput) (s : State) : (applyReset rest s).cmdReady = true := rfl
@[simp] theorem applyReset_cmd (rest : List HostInput) (s : State) : (applyReset rest s).cmd = 0#32 := rfl
@[simp] theorem applyReset_seedIn (rest : List HostInput) (s : State) : (applyReset rest s).seedIn = 0#64 := rfl
@[simp] theorem applyReset_entropyIn (rest : List HostInput) (s : State) : (applyReset rest s).entropyIn = 0#64 := rfl
@[simp] theorem applyReset_rspStatus (rest : List HostInput) (s : State) : (applyReset rest s).rspStatus = okStatus := rfl
@[simp] theorem applyReset_rspData (rest : List HostInput) (s : State) : (applyReset rest s).rspData = 0#32 := rfl
@[simp] theorem applyReset_rspValid (rest : List HostInput) (s : State) : (applyReset rest s).rspValid = false := rfl
@[simp] theorem applyReset_host (rest : List HostInput) (s : State) : (applyReset rest s).host = rest := rfl
@[simp] theorem applyReset_freeCount (rest : List HostInput) (s : State) : (applyReset rest s).freeCount = s.freeCount := rfl

@[simp] theorem placeCommand_insts (c : Word) (s : State) : (placeCommand c s).insts = s.insts := rfl
@[simp] theorem placeCommand_cmdReady (c : Word) (s : State) : (placeCommand c s).cmdReady = false := rfl
@[simp] theorem placeCommand_cmd (c : Word) (s : State) : (placeCommand c s).cmd = c := rfl
@[simp] theorem placeCommand_seedIn (c : Word) (s : State) : (placeCommand c s).seedIn = s.seedIn := rfl
@[simp] theorem placeCommand_entropyIn (c : Word) (s : State) : (placeCommand c s).entropyIn = s.entropyIn := rfl
@[simp] theorem placeCommand_rspStatus (c : Word) (s : State) : (placeCommand c s).rspStatus = s.rspStatus := rfl
@[simp] theorem placeCommand_rspData (c : Word) (s : State) : (placeCommand c s).rspData = s.rspData := rfl
@[simp] theorem placeCommand_rspValid (c : Word) (s : State) : (placeCommand c s).rspValid = false := rfl
@[simp] theorem placeCommand_host (c : Word) (s : State) : (placeCommand c s).host = dropResets s.host := rfl
@[simp] theorem placeCommand_freeCount (c : Word) (s : State) : (placeCommand c s).freeCount = s.freeCount := rfl
@[simp] theorem placeCommand_ninst (c : Word) (s : State) : (placeCommand c s).ninst = s.ninst := rfl
@[simp] theorem placeCommand_engines (c : Word) (s : State) (j : InstNum) :
    (placeCommand c s).engines j = s.engines j := rfl

@[simp] theorem setEngines_ninst (s : State) (inst : InstNum) (g : Engines) :
    (s.setEngines inst g).ninst = s.ninst := by
  simp [State.ninst]

@[simp] theorem applyReset_ninst (rest : List HostInput) (s : State) : (applyReset rest s).ninst = s.ninst := by
  simp [State.ninst]

@[simp] theorem resetWith_ninst (n : Nat) : (State.resetWith n).ninst = n := by
  simp [State.ninst, State.resetWith]

/-- An instance number names engines exactly when it is below NINST (R56). -/
theorem engines_isSome_iff (s : State) (inst : InstNum) : (s.engines inst).isSome = true ↔ inst.toNat < s.ninst := by
  simp [State.engines, State.ninst]

/-- Reading the instance that was just written. -/
theorem engines_setEngines_self {s : State} {inst : InstNum} {g g' : Engines} (h : s.engines inst = some g) :
    (s.setEngines inst g').engines inst = some g' := by
  have hlt : inst.toNat < s.insts.length := (engines_isSome_iff s inst).1 (by simp [h])
  simp [State.engines, List.getElem?_set_self hlt]

/-- A write leaves every other instance number alone (R36). -/
theorem engines_setEngines_other {s : State} {inst j : InstNum} {g : Engines} (h : j ≠ inst) :
    (s.setEngines inst g).engines j = s.engines j := by
  have hne : inst.toNat ≠ j.toNat := fun e => h (BitVec.eq_of_toNat_eq e.symm)
  simp [State.engines, List.getElem?_set_ne hne]

end Sys2Proof.Machine
end

