-- ==== Sys2Proof/Laws/Ops.lean ====
section
/-! SUPPORT. Once for each shared operation: everything it can do. Later proofs cite these lemmas instead of unfolding. -/

namespace Sys2Proof.Machine

/-- A construct command always answers a next state, and these are the three it can answer. -/
theorem construct_cases {α : Type} (inst : InstNum) (seed : Option α) (build : α → Engines → Engines) (s : State) :
    (s.engines inst = none ∧ construct inst seed build s = .next (raise .illegalCommand s)) ∨
    (∃ g, s.engines inst = some g ∧ seed = none ∧ construct inst seed build s = .next (raise .illegalOperand s)) ∨
    (∃ g v, s.engines inst = some g ∧ seed = some v ∧
      construct inst seed build s = .next (respond 0#32 (s.setEngines inst (build v g)))) := by
  unfold construct
  cases hg : s.engines inst with
  | none => exact .inl ⟨rfl, rfl⟩
  | some g =>
    cases seed with
    | none => exact .inr (.inl ⟨g, rfl, rfl, rfl⟩)
    | some v => exact .inr (.inr ⟨g, v, rfl, rfl, rfl⟩)

/-- A pull command always answers a next state, and these are the three it can answer. -/
theorem pull_cases (inst : InstNum) (con : Engines → Bool) (advance : Engines → Engines) (out : Engines → Word) (s : State) :
    (s.engines inst = none ∧ pull inst con advance out s = .next (raise .illegalCommand s)) ∨
    (∃ g, s.engines inst = some g ∧ con g = false ∧ pull inst con advance out s = .next (raise .unseeded s)) ∨
    (∃ g, s.engines inst = some g ∧ con g = true ∧
      pull inst con advance out s = .next (respond (out g) (s.setEngines inst (advance g)))) := by
  unfold pull
  cases hg : s.engines inst with
  | none => exact .inl ⟨rfl, rfl⟩
  | some g =>
    cases hc : con g with
    | false => exact .inr (.inl ⟨g, rfl, hc, by simp [hc]⟩)
    | true => exact .inr (.inr ⟨g, rfl, hc, by simp [hc]⟩)

/-- The 32-bit seed is there exactly when the upper half of SEED_IN is 0, and is then its lower half (R58). -/
theorem seed32_eq_some_iff (d : DWord) (v : Word) :
    seed32 d = some v ↔ d.extractLsb' 32 32 = 0#32 ∧ d.extractLsb' 0 32 = v := by
  unfold seed32
  split <;> simp_all

/-- What completing the command in flight is: the decoded command, or ILLEGAL_COMMAND. -/
theorem completeCommand_cases (s : State) :
    (∃ i, decode s.cmd s.ninst = .ok i ∧ completeCommand s = exec i s) ∨
    (∃ e, decode s.cmd s.ninst = .error e ∧ completeCommand s = .next (raise .illegalCommand s)) := by
  unfold completeCommand
  cases h : decode s.cmd s.ninst with
  | ok i => exact .inl ⟨i, rfl, rfl⟩
  | error e => exact .inr ⟨e, rfl, rfl⟩

/-- What a step is: a reset, a completion, an acceptance, or one of the two ways of idling. -/
theorem step_cases (s : State) :
    (∃ rest, s.host = .reset :: rest ∧ step s = .next (applyReset rest s)) ∨
    (s.rst = false ∧ s.cmdReady = false ∧ step s = completeCommand s) ∨
    (∃ c d e rest, s.host = .command c d e :: rest ∧ s.cmdReady = true ∧ step s = .next (acceptCommand c d e rest s)) ∨
    (∃ rest, s.host = .idle :: rest ∧ s.cmdReady = true ∧ step s = .next { s with host := rest }) ∨
    (s.host = [] ∧ s.cmdReady = true ∧ step s = .next s) := by
  cases hh : s.host with
  | nil =>
    cases hr : s.cmdReady with
    | false => exact .inr (.inl ⟨by simp [State.rst, hh], rfl, by simp [step, portStep, hh, hr]⟩)
    | true => exact .inr (.inr (.inr (.inr ⟨rfl, rfl, by simp [step, portStep, hh, hr]⟩)))
  | cons x rest =>
    cases x with
    | reset => exact .inl ⟨rest, rfl, by simp [step, portStep, hh]⟩
    | idle =>
      cases hr : s.cmdReady with
      | false => exact .inr (.inl ⟨by simp [State.rst, hh], rfl, by simp [step, portStep, hh, hr]⟩)
      | true => exact .inr (.inr (.inr (.inl ⟨rest, rfl, rfl, by simp [step, portStep, hh, hr]⟩)))
    | command c d e =>
      cases hr : s.cmdReady with
      | false => exact .inr (.inl ⟨by simp [State.rst, hh], rfl, by simp [step, portStep, hh, hr]⟩)
      | true => exact .inr (.inr (.inl ⟨c, d, e, rest, rfl, rfl, by simp [step, portStep, hh, hr]⟩))

/-- Word 0 of a seeded array is the seed, and each later word follows from the one before it (R70). -/
theorem mtSeedWords_getElem (p : Word) (k n j : Nat) (h : j + 1 < (mtSeedWords p k n).length) :
    (mtSeedWords p k n)[j + 1] = mtSeedStep ((mtSeedWords p k n)[j]) (k + j + 1) := by
  induction n generalizing p k j with
  | zero => simp [mtSeedWords] at h
  | succ n ih =>
    cases j with
    | zero =>
      cases n with
      | zero => simp [mtSeedWords] at h
      | succ n => simp [mtSeedWords]
    | succ j =>
      have h' : j + 1 < (mtSeedWords (mtSeedStep p (k + 1)) (k + 1) n).length := by
        simpa [mtSeedWords] using h
      have := ih (mtSeedStep p (k + 1)) (k + 1) j h'
      simp only [mtSeedWords, List.getElem_cons_succ, this]
      congr 1
      omega

end Sys2Proof.Machine
end

