-- ==== Sys2Proof/Laws/Exec.lean ====
section
/-! SUPPORT. Once for `exec`: what any command can do. -/

namespace Sys2Proof.Machine

/-- The engines `g'` are `g` but for the engine of one kind (R36). -/
def Engines.agreeOutside (k : Kind) (g g' : Engines) : Prop :=
  (k ≠ .mt → g'.mt = g.mt) ∧ (k ≠ .xs → g'.xs = g.xs) ∧ (k ≠ .pcg → g'.pcg = g.pcg) ∧ (k ≠ .bbs → g'.bbs = g.bbs)

/-- What a command on the engine (k, inst) can answer: an error, or OK with some data and, of the instance, the engine of
kind k replaced by one that is constructed. -/
def AnswersLike (k : Kind) (inst : InstNum) (s : State) (o : Host.Outcome State Fault Refusal) : Prop :=
  (∃ e, o = .next (raise e s)) ∨
  (∃ g g' v, s.engines inst = some g ∧ g.agreeOutside k g' ∧ g'.con k = true ∧ o = .next (respond v (s.setEngines inst g')))

theorem construct_answersLike {α : Type} {k : Kind} {inst : InstNum} {seed : Option α} {build : α → Engines → Engines}
    {s : State} (hkeep : ∀ v (g : Engines), g.agreeOutside k (build v g)) (hcon : ∀ v g, (build v g).con k = true) :
    AnswersLike k inst s (construct inst seed build s) := by
  rcases construct_cases inst seed build s with ⟨_, h⟩ | ⟨_, _, _, h⟩ | ⟨g, v, hg, _, h⟩
  · exact .inl ⟨_, h⟩
  · exact .inl ⟨_, h⟩
  · exact .inr ⟨g, _, _, hg, hkeep v g, hcon v g, h⟩

theorem pull_answersLike {k : Kind} {inst : InstNum} {con : Engines → Bool} {advance : Engines → Engines}
    {out : Engines → Word} {s : State} (hkeep : ∀ g : Engines, g.agreeOutside k (advance g))
    (hcon : ∀ g, con g = true → (advance g).con k = true) :
    AnswersLike k inst s (pull inst con advance out s) := by
  rcases pull_cases inst con advance out s with ⟨_, h⟩ | ⟨_, _, _, h⟩ | ⟨g, hg, hc, h⟩
  · exact .inl ⟨_, h⟩
  · exact .inl ⟨_, h⟩
  · exact .inr ⟨g, _, _, hg, hkeep g, hcon g hc, h⟩

/-- Replacing the MT engine keeps the others; likewise below for the other kinds. -/
theorem agreeOutside_mt (g : Engines) (e : MtEngine) : g.agreeOutside .mt { g with mt := e } :=
  ⟨fun h => absurd rfl h, fun _ => rfl, fun _ => rfl, fun _ => rfl⟩
theorem agreeOutside_xs (g : Engines) (e : XsEngine) : g.agreeOutside .xs { g with xs := e } :=
  ⟨fun _ => rfl, fun h => absurd rfl h, fun _ => rfl, fun _ => rfl⟩
theorem agreeOutside_pcg (g : Engines) (e : PcgEngine) : g.agreeOutside .pcg { g with pcg := e } :=
  ⟨fun _ => rfl, fun _ => rfl, fun h => absurd rfl h, fun _ => rfl⟩
theorem agreeOutside_bbs (g : Engines) (e : BbsEngine) : g.agreeOutside .bbs { g with bbs := e } :=
  ⟨fun _ => rfl, fun _ => rfl, fun _ => rfl, fun h => absurd rfl h⟩

/-- Every command answers an error, or OK with the engine it names replaced by a constructed one. -/
theorem exec_cases (i : Instr) (s : State) : AnswersLike i.kind i.inst s (exec i s) := by
  cases i with
  | mtNext a =>
    show AnswersLike .mt a s (execMtNext a s)
    unfold execMtNext
    exact pull_answersLike (fun g => agreeOutside_mt g _) (fun _ h => by simpa only [Engines.con, mtAdvance] using h)
  | mtSeed a =>
    show AnswersLike .mt a s (execMtSeed a s)
    unfold execMtSeed
    exact construct_answersLike (fun _ g => agreeOutside_mt g _) (fun _ _ => by simp only [Engines.con, mtConstructed])
  | xsNext a =>
    show AnswersLike .xs a s (execXsNext a s)
    unfold execXsNext
    exact pull_answersLike (fun g => agreeOutside_xs g _) (fun _ h => by simpa only [Engines.con] using h)
  | xsSeed a =>
    show AnswersLike .xs a s (execXsSeed a s)
    unfold execXsSeed
    exact construct_answersLike (fun _ g => agreeOutside_xs g _) (fun _ _ => by simp only [Engines.con, xsConstructed])
  | xsSeedd a =>
    show AnswersLike .xs a s (execXsSeedd a s)
    unfold execXsSeedd
    exact construct_answersLike (fun _ g => agreeOutside_xs g _) (fun _ _ => by simp only [Engines.con, xsConstructed])
  | pcgNext a =>
    show AnswersLike .pcg a s (execPcgNext a s)
    unfold execPcgNext
    exact pull_answersLike (fun g => agreeOutside_pcg g _) (fun _ h => by simpa only [Engines.con] using h)
  | pcgSeed a =>
    show AnswersLike .pcg a s (execPcgSeed a s)
    unfold execPcgSeed
    exact construct_answersLike (fun _ g => agreeOutside_pcg g _) (fun _ _ => by simp only [Engines.con, pcgConstructed])
  | pcgSeedd a =>
    show AnswersLike .pcg a s (execPcgSeedd a s)
    unfold execPcgSeedd
    exact construct_answersLike (fun _ g => agreeOutside_pcg g _) (fun _ _ => by simp only [Engines.con, pcgConstructed])
  | bbsNext a =>
    show AnswersLike .bbs a s (execBbsNext a s)
    unfold execBbsNext
    exact pull_answersLike (fun g => agreeOutside_bbs g _) (fun _ h => by simpa only [Engines.con] using h)
  | bbsSeed a =>
    show AnswersLike .bbs a s (execBbsSeed a s)
    unfold execBbsSeed
    exact construct_answersLike (fun _ g => agreeOutside_bbs g _) (fun _ _ => by simp only [Engines.con, bbsConstructed])
  | bbsSeedd a =>
    show AnswersLike .bbs a s (execBbsSeedd a s)
    unfold execBbsSeedd
    exact construct_answersLike (fun _ g => agreeOutside_bbs g _) (fun _ _ => by simp only [Engines.con, bbsConstructed])

end Sys2Proof.Machine
end

