-- ==== Sys2Proof/Laws/PerInstr.lean ====
section
/-! SUPPORT. Statements about every command as syntax, one lemma per constructor of Instr. -/

namespace Sys2Proof.Laws.EncodesRow

/-- The match value of a command's row in spec/opcode_table.json (30_encoding.md R60). -/
def rowMatch : Instr → Word
  | .mtNext _ => 0x00000004#32
  | .mtSeed _ => 0x00000008#32
  | .xsNext _ => 0x00000005#32
  | .xsSeed _ => 0x00000009#32
  | .xsSeedd _ => 0x0000000D#32
  | .pcgNext _ => 0x00000006#32
  | .pcgSeed _ => 0x0000000A#32
  | .pcgSeedd _ => 0x0000000E#32
  | .bbsNext _ => 0x00000007#32
  | .bbsSeed _ => 0x0000000B#32
  | .bbsSeedd _ => 0x0000000F#32

/-- The encoded command matches its row under the mask 0xFFFF00FF, and INST stands at bits 15:8 (R53, R60). -/
def Statement (i : Instr) : Prop :=
  encode i &&& 0xFFFF00FF#32 = rowMatch i ∧ (encode i).extractLsb' 8 8 = i.inst

theorem mtNext (inst : InstNum) : Statement (.mtNext inst) := by revert inst; unfold Statement; decide
theorem mtSeed (inst : InstNum) : Statement (.mtSeed inst) := by revert inst; unfold Statement; decide
theorem xsNext (inst : InstNum) : Statement (.xsNext inst) := by revert inst; unfold Statement; decide
theorem xsSeed (inst : InstNum) : Statement (.xsSeed inst) := by revert inst; unfold Statement; decide
theorem xsSeedd (inst : InstNum) : Statement (.xsSeedd inst) := by revert inst; unfold Statement; decide
theorem pcgNext (inst : InstNum) : Statement (.pcgNext inst) := by revert inst; unfold Statement; decide
theorem pcgSeed (inst : InstNum) : Statement (.pcgSeed inst) := by revert inst; unfold Statement; decide
theorem pcgSeedd (inst : InstNum) : Statement (.pcgSeedd inst) := by revert inst; unfold Statement; decide
theorem bbsNext (inst : InstNum) : Statement (.bbsNext inst) := by revert inst; unfold Statement; decide
theorem bbsSeed (inst : InstNum) : Statement (.bbsSeed inst) := by revert inst; unfold Statement; decide
theorem bbsSeedd (inst : InstNum) : Statement (.bbsSeedd inst) := by revert inst; unfold Statement; decide

end Sys2Proof.Laws.EncodesRow
end

