-- ==== Sys2Proof/Laws/Run.lean ====
section
/-! SUPPORT. What a step does to the run of a host program (70_reset_and_hazards.md R141): it uses up inputs or answers a
command, so that the bound on the steps left falls. -/

namespace Sys2Proof.Machine

/-- The port after a completion: ready, with the response valid, and the outside's list untouched. -/
theorem completeCommand_port {s t : State} (h : completeCommand s = .next t) :
    t.cmdReady = true ∧ t.rspValid = true ∧ t.host = s.host := by
  rcases completeCommand_cases s with ⟨i, _, hc⟩ | ⟨e, _, hc⟩
  · rcases exec_cases i s with ⟨e, he⟩ | ⟨g, g', v, _, _, _, he⟩
    · cases h.symm.trans (hc.trans he); exact ⟨rfl, rfl, rfl⟩
    · cases h.symm.trans (hc.trans he); exact ⟨rfl, rfl, rfl⟩
  · cases h.symm.trans hc; exact ⟨rfl, rfl, rfl⟩

/-- A run that is not over has a command in flight or something left to present. -/
theorem runEnded_of_ready_of_nil {s : State} (hr : s.cmdReady = true) (hh : s.host = []) : s.runEnded = true := by
  simp [State.runEnded, hr, hh]

/-- A step of a run that is not over brings its end nearer. -/
theorem step_stepsToEnd_lt {s t : State} (hn : s.runEnded = false) (h : step s = .next t) :
    t.stepsToEnd < s.stepsToEnd := by
  rcases step_cases s with ⟨r, hh, hs⟩ | ⟨_, hr, hs⟩ | ⟨c, d, e, r, hh, hr, hs⟩ | ⟨r, hh, hr, hs⟩ | ⟨hh, hr, _⟩
  · cases h.symm.trans hs
    simp [State.stepsToEnd, hh]
    omega
  · obtain ⟨h1, _, h3⟩ := completeCommand_port (hs.symm.trans h)
    simp [State.stepsToEnd, h1, h3, hr]
  · cases h.symm.trans hs
    simp [State.stepsToEnd, hh, hr]
    omega
  · cases h.symm.trans hs
    simp [State.stepsToEnd, hh, hr]
  · rw [runEnded_of_ready_of_nil hr hh] at hn
    cases hn

end Sys2Proof.Machine
end

