-- ==== Sys2Proof/Tests/Slice0.lean ====
section
/-! SUPPORT. Small tests, with expected results from the spec's own examples and vectors (95_test_vectors.md and the worked
examples of the rules), and for every statement with hypotheses a concrete state and operands that meet them. -/

namespace Sys2Proof.Tests

open Sys2Proof.Machine

/-- RSP_STATUS and RSP_DATA after a command, where it answers a next state. -/
def response (o : Host.Outcome State Fault Refusal) : Option (BitVec 2 × Word) :=
  match o with
  | .next t => some (t.rspStatus, t.rspData)
  | .fault _ => none
  | .refused _ => none

/-- The engines of instance 0 after a command. -/
def engines0 (o : Host.Outcome State Fault Refusal) : Option Engines :=
  match o with
  | .next t => t.engines 0
  | .fault _ => none
  | .refused _ => none

/-- Engines constructed with seed 42. -/
def live : Engines where
  mt := mtConstructed 42#32
  xs := xsConstructed 42#32
  pcg := pcgConstructed 42#64
  bbs := bbsConstructed 42#64

/-- A part with NINST = 2: instance 0 constructed with seed 42, instance 1 as after reset. -/
def bench : State := { State.resetWith 2 with insts := [live, Engines.reset] }

/-- The same part with SEED_IN and ENTROPY_IN as given. -/
def benchWith (seedIn entropyIn : DWord) : State := { bench with seedIn := seedIn, entropyIn := entropyIn }

/-- The same part with a command word in flight. -/
def inFlight (cmd : Word) : State := placeCommand cmd bench

/-! ### WellFormed: an ill-formed term for each check -/

theorem test_wf_refuses_missing_instance : Instr.wf 1 (.mtNext 1) = false := by decide
theorem test_wf_accepts_last_instance : Instr.wf 256 (.bbsSeedd 255) = true := by decide
theorem test_ninst_refuses_zero : ninstWf 0 = false := by decide
theorem test_ninst_refuses_257 : ninstWf 257 = false := by decide

/-! ### Decode: one word per command (R60, R67), written bit by bit in the pattern of R53, and the illegal words of
95_test_vectors.md V-E-1..V-E-6 -/

theorem test_decode_mt_next : decode 0b0000000000000000_00000000_0000_01_00#32 1 = .ok (.mtNext 0) := by decide
theorem test_decode_mt_seed : decode 0b0000000000000000_00000001_0000_10_00#32 2 = .ok (.mtSeed 1) := by decide
theorem test_decode_xs_next : decode 0b0000000000000000_00000000_0000_01_01#32 1 = .ok (.xsNext 0) := by decide
theorem test_decode_xs_seed : decode 0b0000000000000000_00000010_0000_10_01#32 3 = .ok (.xsSeed 2) := by decide
theorem test_decode_xs_seedd : decode 0b0000000000000000_00000000_0000_11_01#32 1 = .ok (.xsSeedd 0) := by decide
theorem test_decode_pcg_next : decode 0b0000000000000000_00000011_0000_01_10#32 4 = .ok (.pcgNext 3) := by decide
theorem test_decode_pcg_seed : decode 0b0000000000000000_00000000_0000_10_10#32 1 = .ok (.pcgSeed 0) := by decide
theorem test_decode_pcg_seedd : decode 0b0000000000000000_00000000_0000_11_10#32 1 = .ok (.pcgSeedd 0) := by decide
theorem test_decode_bbs_next : decode 0b0000000000000000_11111111_0000_01_11#32 256 = .ok (.bbsNext 255) := by decide
theorem test_decode_bbs_seed : decode 0b0000000000000000_00000000_0000_10_11#32 1 = .ok (.bbsSeed 0) := by decide
theorem test_decode_bbs_seedd : decode 0b0000000000000000_00000000_0000_11_11#32 1 = .ok (.bbsSeedd 0) := by decide

theorem test_decode_zero_word : decode 0x00000000#32 1 = .error .reservedOp := by decide
theorem test_decode_mt_seedd : decode 0x0000000C#32 1 = .error .mtHasNoSeedd := by decide
theorem test_decode_rsv1 : decode 0x00010004#32 1 = .error .reservedBits := by decide
theorem test_decode_rsv0 : decode 0x00000014#32 1 = .error .reservedBits := by decide
theorem test_decode_instance : decode 0x00000104#32 1 = .error .noSuchInstance := by decide
theorem test_decode_instance_at_bound : decode 0x0000FF07#32 255 = .error .noSuchInstance := by decide

theorem test_table_word : decodeTableWord 32 0x0000000E = some (.pcgSeedd 0) := by decide

/-! ### The engines: worked examples of R70..R75, R87, R95..R97, R104..R108 and the vectors of 95_test_vectors.md L2 -/

theorem test_mt_twist : mtTwistA 0xFFFFFFFF#32 = 0xE6F74F20#32 ∧ mtTwistA 0x80000000#32 = 0x40000000#32 := by decide
theorem test_mt_temper : mtTemper 0x12345678#32 = 0x2B7E4A2D#32 ∧ mtTemper 0x2B26E943#32 = 0x5FE1DC66#32 := by decide
/-- R70's example and 95 L2.1. -/
theorem test_mt_seed_words : (mtSeedArray 42#32)[1] = 0xB93C8A93#32 ∧ (mtSeedArray 42#32)[623] = 0x0197B52A#32 := by
  decide +kernel
/-- V-MT-1. -/
theorem test_mt_next_first : response (exec (.mtNext 0) bench) = some (0b00#2, 1608637542#32) := by decide +kernel
/-- V-MT-2: the state after the pull. -/
theorem test_mt_next_state :
    (engines0 (exec (.mtNext 0) bench)).map (fun g => (g.mt.st[0], g.mt.idx, g.mt.st[1])) =
      some (0x2B26E943#32, 1, 0xB93C8A93#32) := by decide +kernel
/-- The index wraps after the pull at 623 (R75). -/
theorem test_mt_index_wraps :
    (mtAdvance .standard { st := Vector.replicate 624 7#32, idx := 623, con := true }).idx = 0 := by decide
/-- V-MT-10, the literal reading. -/
theorem test_mt_literal_first : mtOutput .literal (mtConstructed 42#32) = 2232843855#32 := by decide +kernel
/-- V-MT-11. -/
theorem test_mt_seed_wide :
    response (exec (.mtSeed 0) (benchWith 0x000000010000002A#64 0#64)) = some (0b10#2, 0#32) := by decide

/-- V-XS-1. -/
theorem test_xs_next : response (exec (.xsNext 0) bench) = some (0b00#2, 11355432#32) := by decide
/-- V-XS-3. -/
theorem test_xs_step_top_bit : xsStep 0x80000000#32 = 2148024320#32 := by decide
/-- V-XS-8. -/
theorem test_xs_seed_wide :
    response (exec (.xsSeed 0) (benchWith 0x0000000100000001#64 0#64)) = some (0b10#2, 0#32) := by decide
theorem test_xs_seed : (engines0 (exec (.xsSeed 0) (benchWith 1#64 0#64))).map (fun g => g.xs) =
    some { st := 1#32, con := true } := by decide
/-- V-XS-7: only bits 31:0 of the draw are used. -/
theorem test_xs_seedd : (engines0 (exec (.xsSeedd 0) (benchWith 0#64 0xFFFFFFFF00000000#64))).map (fun g => g.xs) =
    some { st := 0#32, con := true } := by decide

/-- V-PCG-1: the output and the state. -/
theorem test_pcg_next : response (exec (.pcgNext 0) bench) = some (0b00#2, 1971522493#32) := by decide
theorem test_pcg_next_state : (engines0 (exec (.pcgNext 0) bench)).map (fun g => g.pcg.st) =
    some 0x91778AED87EE5EB1#64 := by decide
/-- V-PCG-7 (rotation 0) and V-PCG-8 (rotation 31). -/
theorem test_pcg_rotations : pcgPermute true 0x0000200080000000#64 = 262161#32 ∧
    pcgPermute true 0xF80123456789ABCD#64 = 4673866#32 := by decide
/-- V-PCG-9, the untruncated reading. -/
theorem test_pcg_untruncated : pcgPermute false 0x0FC0000000000000#64 = 4227874560#32 := by decide
/-- V-E-12. -/
theorem test_pcg_seed : (engines0 (exec (.pcgSeed 0) (benchWith 0xFFFFFFFFFFFFFFFF#64 0#64))).map (fun g => g.pcg) =
    some { st := 0xFFFFFFFFFFFFFFFF#64, con := true } := by decide
/-- R94's example. -/
theorem test_pcg_seedd : (engines0 (exec (.pcgSeedd 0) (benchWith 0#64 0x0000000065000000#64))).map (fun g => g.pcg) =
    some { st := 0x0000000065000000#64, con := true } := by decide

/-- V-BBS-1. -/
theorem test_bbs_next : response (exec (.bbsNext 0) bench) = some (0b00#2, 109213#32) := by decide +kernel
/-- V-E-13. -/
theorem test_bbs_seed : (engines0 (exec (.bbsSeed 0) (benchWith 0xFFFFFFFFFFFFFFFF#64 0#64))).map (fun g => g.bbs.st.val) =
    some 13874 := by decide +kernel
/-- V-BBS-12. -/
theorem test_bbs_seedd : (engines0 (exec (.bbsSeedd 0) (benchWith 0#64 2#64))).map (fun g => g.bbs.st.val) = some 4 := by
  decide +kernel

/-! ### The port (95_test_vectors.md L2.6) -/

/-- V-E-8: MT.NEXT before any construct. -/
theorem test_step_unseeded : response (step (State.reset.withFetchWord 32 0x00000004)) = some (0b11#2, 0#32) := by decide
/-- V-E-7: ILLEGAL_COMMAND comes before ILLEGAL_OPERAND. -/
theorem test_step_priority :
    response (step { State.reset.withFetchWord 32 0x00000108 with seedIn := 0x0000000100000000#64 }) =
      some (0b01#2, 0#32) := by decide
/-- A command accepted from the outside is answered by the step after (R136, V-BBS-8). -/
theorem test_accept_then_answer :
    trace 2 { State.reset with host := [.command 0x0000000B#32 2#64 0#64] } =
      [(⟨0x0000000B#32, 2#64, 0#64⟩, ⟨0b00#2, 0#32⟩)] := by decide +kernel
/-- R131: a reset takes the command in flight, and nothing is observed. -/
theorem test_reset_in_flight :
    trace 2 { State.reset with host := [.command 0x0000000B#32 2#64 0#64, .reset] } = [] := by decide +kernel

/-- R141: one command's run, with the reset behind its response no part of it (V-BBS-8). -/
theorem test_run_observation :
    observeRun 7 { State.reset with host := [.command 0x0000000B#32 2#64 0#64, .idle, .reset] } =
      some ⟨[(⟨0x0000000B#32, 2#64, 0#64⟩, ⟨0b00#2, 0#32⟩)], [⟨none, none, none, some 4⟩]⟩ := by decide +kernel

/-- P3 row 5: a literal that does not fit; R65. -/
theorem test_assembler_rejects_wide : assemble 0#64 (.seed .mt 0 0x10000002A) = .error .seedTooWide := by decide
/-- R67's first example, as a listing shows it. -/
theorem test_listing : (assemble 0#64 (.seed .mt 0 42)).toOption.map (fun l => l.map listing) =
    some ["CMD=0x00000008 SEED_IN=0x000000000000002A"] := by decide +kernel
theorem test_mnemonic : mnemonic (.pcgSeedd 0) = "pcg.seedd" := by decide +kernel

/-! ### Witnesses: for each statement with hypotheses, a state and operands that meet all of them -/

theorem witness_bench_engine : bench.engines 0 = some live := rfl
theorem witness_bench_reset_engine : bench.engines 1 = some Engines.reset := rfl

/-- IllegalWordsAreExactlyTheListedOnes: both ends of NINST, and a state with an illegal word in flight. -/
theorem witness_IllegalWords : 1 ≤ (inFlight 0#32).ninst ∧ (inFlight 0#32).ninst ≤ 256 ∧ (inFlight 0#32).rst = false ∧
    (inFlight 0#32).cmdReady = false ∧ Spec.illegalWord (inFlight 0#32).cmd.toNat 2 := by
  refine ⟨by decide, by decide, by decide, by decide, .inr (.inr (.inl (by decide)))⟩
theorem witness_IllegalWords_bounds : ((1 : Nat) ≤ 1 ∧ 1 ≤ 256) ∧ ((1 : Nat) ≤ 256 ∧ 256 ≤ 256) := by decide
/-- EncodingExamplesAssembleAndDecode: the least NINST with an instance 3. -/
theorem witness_EncodingExamples : (4 : Nat) ≤ 4 := by decide
/-- DecodeChecksInListedOrder: a word for each of its four clauses, at the lowest bit of the field. -/
theorem witness_DecodeChecks : decode 0x00010000#32 1 = .error .reservedBits ∧ decode 0x00000003#32 1 = .error .reservedOp ∧
    decode 0x0000FF0C#32 1 = .error .mtHasNoSeedd ∧ decode 0x0000010F#32 1 = .error .noSuchInstance := by decide
/-- AssemblerFollowsTheForms: a command of each operation on one kind and instance, and the least count of a pull. -/
theorem witness_Assembler :
    (Instr.xsNext 255).kind = .xs ∧ (Instr.xsNext 255).inst = 255 ∧ (Instr.xsNext 255).op = .next ∧
    (Instr.xsSeed 255).kind = .xs ∧ (Instr.xsSeed 255).inst = 255 ∧ (Instr.xsSeed 255).op = .seed ∧
    (Instr.xsSeedd 255).kind = .xs ∧ (Instr.xsSeedd 255).inst = 255 ∧ (Instr.xsSeedd 255).op = .seedd ∧
    (1 : Nat) ≤ 1 := by decide
/-- Both sides of the width check of AssemblerFollowsTheForms at their bounds, for a 32-bit and a 64-bit kind. -/
theorem witness_Assembler_bounds :
    2 ^ 32 - 1 < 2 ^ (if Kind.xs = .mt ∨ Kind.xs = .xs then 32 else 64) ∧
    ¬ 2 ^ 32 < 2 ^ (if Kind.mt = .mt ∨ Kind.mt = .xs then 32 else 64) ∧
    2 ^ 64 - 1 < 2 ^ (if Kind.bbs = .mt ∨ Kind.bbs = .xs then 32 else 64) ∧
    ¬ 2 ^ 64 < 2 ^ (if Kind.pcg = .mt ∨ Kind.pcg = .xs then 32 else 64) := by decide
/-- StepRunsTheDecodedCommand. -/
theorem witness_StepRuns : (inFlight 0x00000105#32).rst = false ∧ (inFlight 0x00000105#32).cmdReady = false ∧
    decode (inFlight 0x00000105#32).cmd (inFlight 0x00000105#32).ninst = .ok (.xsNext 1) := by decide
/-- AcceptanceSamplesTheTuple and AcceptedCommandGetsExactlyOneResponse. -/
theorem witness_Acceptance :
    { bench with host := [.command 0x00000004#32 1#64 2#64, .idle] }.host =
      .command 0x00000004#32 1#64 2#64 :: [HostInput.idle] ∧
    { bench with host := [.command 0x00000004#32 1#64 2#64, .idle] }.cmdReady = true ∧
    ∀ r, [HostInput.idle] ≠ .reset :: r := by
  refine ⟨rfl, rfl, ?_⟩
  intro r h
  cases h
/-- InFlightCommandIsAnsweredAndOthersWait: with a command waiting. -/
theorem witness_InFlight :
    { inFlight 0x00000004#32 with host := [.command 0x00000005#32 0#64 0#64] }.rst = false ∧
    { inFlight 0x00000004#32 with host := [.command 0x00000005#32 0#64 0#64] }.cmdReady = false := by decide
/-- ResetDiscardsTheCommandInFlight. -/
theorem witness_Reset : { inFlight 0x00000004#32 with host := [.reset, .idle] }.host = .reset :: [HostInput.idle] := rfl
/-- IdleBlockDoesNothing: both of its clauses. -/
theorem witness_Idle : bench.cmdReady = true ∧ bench.host = [] ∧ { bench with host := [.idle] }.cmdReady = true ∧
    { bench with host := [.idle] }.host = .idle :: [] := ⟨rfl, rfl, rfl, rfl⟩
/-- EveryStepKeepsThePortInvariant: a ready state with constructed instances and a response. -/
theorem witness_PortInv : PortInv { bench with rspValid := true } ∧
    step { bench with rspValid := true } = .next { bench with rspValid := true } := by
  refine ⟨⟨by decide, fun _ => rfl, fun _ h => by simp at h, fun _ h => by simp at h, fun _ h => absurd rfl h⟩, rfl⟩
/-- CommandWritesOnlyTheNamedEngine, OnlyASuccessfulConstructSetsTheFlag: a construct of instance 1; another kind and
another instance are the clauses' other engines. -/
theorem witness_Writes : ∃ t, exec (.xsSeed 1) bench = .next t ∧ t.rspStatus = 0b00#2 ∧ t.con .xs 1 = some true ∧
    (Kind.mt ≠ (Instr.xsSeed 1).kind) ∧ (0#8 ≠ (Instr.xsSeed 1).inst) := ⟨_, rfl, by decide⟩
/-- CommandReadsOnlyTheNamedEngineAndItsOperand: two states that differ elsewhere. -/
theorem witness_Reads :
    Spec.engineAt (benchWith 1#64 2#64) .xs 0 = Spec.engineAt (benchWith 1#64 3#64) .xs 0 ∧
    (benchWith 1#64 2#64).seedIn = (benchWith 1#64 3#64).seedIn ∧
    (∃ t, exec (.xsSeed 0) (benchWith 1#64 2#64) = .next t) ∧ (∃ t, exec (.xsSeed 0) (benchWith 1#64 3#64) = .next t) :=
  ⟨rfl, rfl, ⟨_, rfl⟩, ⟨_, rfl⟩⟩
/-- SameSeedSameSequence: instances 0 and 1 of one part. -/
theorem witness_SameSeed : ∃ s' t', exec (.xsSeed 0) (benchWith 7#64 0#64) = .next s' ∧
    exec (.xsSeed 1) (benchWith 7#64 0#64) = .next t' ∧ s'.rspStatus = 0b00#2 ∧ t'.rspStatus = 0b00#2 ∧
    (Instr.xsSeed 0).op = .seed ∧ (Instr.xsSeed 1).op = .seed ∧ (Instr.xsSeed 1).kind = (Instr.xsSeed 0).kind ∧
    (Instr.xsNext 0).op = .next ∧ (Instr.xsNext 0).kind = (Instr.xsSeed 0).kind ∧
    (Instr.xsNext 0).inst = (Instr.xsSeed 0).inst ∧ (Instr.xsNext 1).op = .next ∧
    (Instr.xsNext 1).kind = (Instr.xsSeed 0).kind ∧ (Instr.xsNext 1).inst = (Instr.xsSeed 1).inst :=
  ⟨_, _, rfl, rfl, by decide⟩
/-- SeedIsIdempotent. -/
theorem witness_Idempotent : ∃ t u, (Instr.bbsSeed 0).op = .seed ∧ exec (.bbsSeed 0) bench = .next t ∧
    exec (.bbsSeed 0) t = .next u := ⟨_, _, rfl, rfl, rfl⟩
/-- ErrorResponseChangesOnlyTheOutputs: an unseeded NEXT in flight. -/
theorem witness_Error : ∃ t, (inFlight 0x00000105#32).rst = false ∧ (inFlight 0x00000105#32).cmdReady = false ∧
    step (inFlight 0x00000105#32) = .next t ∧ t.rspStatus ≠ 0b00#2 := ⟨_, rfl, rfl, rfl, by decide⟩
/-- StatusIsTheFirstFailingCheck: every state `inFlight w` meets its premises. -/
theorem witness_Status_premises (w : Word) : (inFlight w).rst = false ∧ (inFlight w).cmdReady = false := ⟨rfl, rfl⟩
/-- StatusIsTheFirstFailingCheck: an illegal word; a SEED at the first wide seed and at the last narrow one; a NEXT on a
constructed and on an unconstructed instance; and a SEEDD. -/
theorem witness_Status_clauses :
    response (step (inFlight 0x00000204#32)) = some (0b01#2, 0#32) ∧
    response (step { inFlight 0x00000008#32 with seedIn := 0x0000000100000000#64 }) = some (0b10#2, 0#32) ∧
    response (step { inFlight 0x00000009#32 with seedIn := 0x00000000FFFFFFFF#64 }) = some (0b00#2, 0#32) ∧
    response (step (inFlight 0x00000005#32)) = some (0b00#2, 11355432#32) ∧
    response (step (inFlight 0x00000105#32)) = some (0b11#2, 0#32) ∧
    response (step (inFlight 0x0000000D#32)) = some (0b00#2, 0#32) := by decide
/-- MissingInstanceIsIllegalCommand: the first instance the part does not have. -/
theorem witness_MissingInstance : bench.ninst ≤ (Instr.mtNext 2).inst.toNat := by decide
/-- NextOnUnconstructedInstanceIsUnseeded. -/
theorem witness_Unseeded : (Instr.pcgNext 1).op = .next ∧ bench.con .pcg 1 = some false := ⟨rfl, rfl⟩
/-- WideMtAndXsSeedsAreIllegalOperands: the first wide seed. -/
theorem witness_WideSeed : (1#8).toNat < (benchWith 0x0000000100000000#64 0#64).ninst ∧
    2 ^ 32 ≤ (benchWith 0x0000000100000000#64 0#64).seedIn.toNat := by decide
/-- The SEED statements: the largest 32-bit seed. -/
theorem witness_Seed : (benchWith 0x00000000FFFFFFFF#64 0#64).engines 1 = some Engines.reset ∧
    (benchWith 0x00000000FFFFFFFF#64 0#64).seedIn.toNat < 2 ^ 32 := ⟨rfl, by decide⟩
/-- The SEEDD statements, PcgSeedStoresTheSeed and BbsSeedStoresTheSquare: the largest operands. -/
theorem witness_Seedd : (benchWith 0xFFFFFFFFFFFFFFFF#64 0xFFFFFFFFFFFFFFFF#64).engines 0 = some live := rfl
/-- The NEXT statements and OnDemandStreamIsTheBatchStream: constructed engines, the MT index 0. -/
theorem witness_Next : bench.engines 0 = some live ∧ live.mt.con = true ∧ live.xs.con = true ∧ live.pcg.con = true ∧
    live.bbs.con = true ∧ live.mt.idx = 0 ∧ live.xs.st ≠ 0#32 := ⟨rfl, rfl, rfl, rfl, rfl, rfl, by decide⟩
/-- SeededArrayIsNeverAllZero: both clauses, seed 0 and seed 1. -/
theorem witness_SeededArray : ∃ t u g h, exec (.mtSeed 0) (benchWith 0#64 0#64) = .next t ∧ t.engines 0 = some g ∧
    exec (.mtSeed 0) (benchWith 1#64 0#64) = .next u ∧ u.engines 0 = some h ∧ (0#64).toNat < 2 ^ 32 ∧
    (1#64 : DWord) ≠ 0#64 := ⟨_, _, _, _, rfl, rfl, rfl, rfl, by decide, by decide⟩
/-- XsZeroIsAFixedPoint: seed 0 (R89). -/
theorem witness_XsZero : { bench with insts := [{ live with xs := xsConstructed 0#32 }] }.engines 0 =
    some { live with xs := xsConstructed 0#32 } ∧ (xsConstructed 0#32).con = true ∧ (xsConstructed 0#32).st = 0#32 :=
  ⟨rfl, rfl, rfl⟩
/-- RotationIsTheRightRotation: the largest 37-bit value. -/
theorem witness_Rotation : (0x0000001FFFFFFFFF#64).toNat < 2 ^ 37 := by decide
/-- TruncationReadingsAgreeAtRotationZero: V-PCG-7's state. -/
theorem witness_RotationZero : pcgRot 0x0000200080000000#64 = 0#5 := by decide
/-- BbsFixedPointsAreExactlyFour: seed 28444 is its own square (V-BBS-11); seeds n, n + 1 and n − 1. -/
theorem witness_BbsFixed :
    { bench with insts := [{ live with bbs := bbsConstructed 28444#64 }] }.engines 0 =
      some { live with bbs := bbsConstructed 28444#64 } ∧
    (bbsConstructed 28444#64).con = true ∧ bbsSquare (bbsConstructed 28444#64).st.val = (bbsConstructed 28444#64).st ∧
    (272953#64).toNat % 272953 = 0 ∧ (272954#64).toNat % 272953 = 1 ∧ (272952#64).toNat % 272953 = 272952 :=
  ⟨rfl, rfl, by decide +kernel, by decide, by decide, by decide⟩
/-- BbsSharedFactorNeverReachesZero: a SEED and a SEEDD, and both orders of the factors (V-BBS-6, V-BBS-7). -/
theorem witness_BbsShared :
    (0#8).toNat < (benchWith 499#64 547#64).ninst ∧
    Spec.bbsConstructs (.bbsSeed 0) 0 (benchWith 499#64 547#64) 499#64 ∧
    (∃ t, exec (.bbsSeed 0) (benchWith 499#64 547#64) = .next t) ∧
    Spec.bbsConstructs (.bbsSeedd 0) 0 (benchWith 499#64 547#64) 547#64 ∧
    (∃ t, exec (.bbsSeedd 0) (benchWith 499#64 547#64) = .next t) ∧
    (499#64).toNat % 499 = 0 ∧ (499#64).toNat % 547 ≠ 0 ∧ (547#64).toNat % 547 = 0 ∧ (547#64).toNat % 499 ≠ 0 :=
  ⟨by decide, .inl ⟨rfl, rfl⟩, ⟨_, rfl⟩, .inr ⟨rfl, rfl⟩, ⟨_, rfl⟩, by decide⟩
/-- BbsSquarePermutesQuadraticResidues: seed 42 (V-BBS-1). -/
theorem witness_BbsCoprime :
    (0#8).toNat < (benchWith 42#64 0#64).ninst ∧ Spec.bbsConstructs (.bbsSeed 0) 0 (benchWith 42#64 0#64) 42#64 ∧
    (∃ t, exec (.bbsSeed 0) (benchWith 42#64 0#64) = .next t) ∧ (42#64).toNat.Coprime 272953 :=
  ⟨by decide, .inl ⟨rfl, rfl⟩, ⟨_, rfl⟩, by decide⟩
/-- RunAnswersAllCommandsInOrder: a command in flight, one waiting and an idle entry, and no reset. -/
theorem witness_Run :
    ∀ x ∈ { inFlight 0x00000004#32 with host := [.command 0x00000005#32 0#64 0#64, .idle] }.host, x ≠ .reset := by
  decide

end Sys2Proof.Tests
end

/-! The invariant of the port (R12, R29, R37, R114, R136): it holds at reset (O17), and every step keeps it (O18). A state
can meet it in three ways, one lemma each: as reset left it, with a command in flight, or with an answer at the port. -/

namespace Sys2Proof.Machine

/-! ### What meets the invariant -/

/-- R12: a legal NINST is one of 1..256, the largest being `ninstMax`. -/
theorem ninstWf_iff (n : Nat) : ninstWf n = true ↔ 1 ≤ n ∧ n ≤ Config.ninstMax := by
  simp [ninstWf]

/-- R37: reset leaves no engine of any kind constructed. -/
@[simp] theorem con_engines_reset (k : Kind) : Engines.reset.con k = false := by cases k <;> rfl

/-- R37: the reset state of a legal part is ready without a response, so the clauses on output registers 0 and con flags 0
are the ones that speak of it. -/
theorem portInv_resetWith {n : Nat} (hn : ninstWf n = true) : PortInv (State.resetWith n) where
  ninst := by rwa [resetWith_ninst]
  validReady := nofun
  resetStatus := fun _ _ => ⟨rfl, rfl⟩
  resetCon := fun _ _ g hg k => by
    obtain rfl : g = Engines.reset := List.eq_of_mem_replicate hg
    exact con_engines_reset k
  errorData := fun _ _ => rfl

/-- The invariant does not read the model's own two fields (logs 6 and 7). -/
theorem PortInv.withHost {s : State} (hs : PortInv s) (rest : List HostInput) (n : Nat) :
    PortInv { s with host := rest, freeCount := n } :=
  ⟨hs.ninst, hs.validReady, hs.resetStatus, hs.resetCon, hs.errorData⟩

/-- R136: while a command is in flight only NINST and RSP_VALID are bound; the other output registers are free. -/
theorem portInv_of_inFlight {t : State} (hn : ninstWf t.ninst = true) (hr : t.cmdReady = false)
    (hv : t.rspValid = false) : PortInv t where
  ninst := hn
  validReady := fun h => by simp [hv] at h
  resetStatus := fun h _ => by simp [hr] at h
  resetCon := fun h _ => by simp [hr] at h
  errorData := fun h _ => by simp [hr] at h

/-- R114: with a response at the port, what is left to say is that an error shows data 0. -/
theorem portInv_of_answered {t : State} (hn : ninstWf t.ninst = true) (hr : t.cmdReady = true)
    (hv : t.rspValid = true) (herr : t.rspStatus ≠ okStatus → t.rspData = 0#32) : PortInv t where
  ninst := hn
  validReady := fun _ => hr
  resetStatus := fun _ h => by simp [hv] at h
  resetCon := fun _ h => by simp [hv] at h
  errorData := fun _ => herr

/-! ### Every kind of step keeps it -/

/-- A completion answers with an error and data 0, or with status OK; NINST stays (R36, R114). -/
theorem completeCommand_answer {s t : State} (h : completeCommand s = .next t) :
    t.ninst = s.ninst ∧ (t.rspStatus ≠ okStatus → t.rspData = 0#32) := by
  rcases completeCommand_cases s with ⟨i, _, hc⟩ | ⟨_, _, hc⟩
  · rcases exec_cases i s with ⟨e, he⟩ | ⟨g, g', v, _, _, _, he⟩
    · cases h.symm.trans (hc.trans he)
      exact ⟨raise_ninst e s, fun _ => raise_rspData e s⟩
    · cases h.symm.trans (hc.trans he)
      exact ⟨by simp, fun hne => absurd (respond_rspStatus v _) hne⟩
  · cases h.symm.trans hc
    exact ⟨raise_ninst _ s, fun _ => raise_rspData _ s⟩

/-- One step from a state that meets the invariant, by what the step is: reset, completion, acceptance or idling. -/
theorem step_portInv {s t : State} (hs : PortInv s) (h : step s = .next t) : PortInv t := by
  rcases step_cases s with ⟨rest, _, hreset⟩ | ⟨_, _, hcomplete⟩ | ⟨c, d, e, rest, _, _, haccept⟩ |
    ⟨rest, _, _, hidle⟩ | ⟨_, _, hidle⟩
  · cases h.symm.trans hreset
    exact (portInv_resetWith hs.ninst).withHost rest s.freeCount
  · have hnext := hcomplete.symm.trans h
    obtain ⟨hready, hvalid, _⟩ := completeCommand_port hnext
    obtain ⟨hninst, herr⟩ := completeCommand_answer hnext
    exact portInv_of_answered (hninst ▸ hs.ninst) hready hvalid herr
  · cases h.symm.trans haccept
    exact portInv_of_inFlight (by simpa using hs.ninst) (by simp) (by simp)
  · cases h.symm.trans hidle
    exact hs.withHost rest s.freeCount
  · cases h.symm.trans hidle
    exact hs

/-! ### The obligations -/

/-- Settles O18, by the cases of a step. -/
theorem everyStepKeepsThePortInvariant : Obligations.EveryStepKeepsThePortInvariant := by
  unfold Obligations.EveryStepKeepsThePortInvariant
  intro s t hs h
  exact step_portInv hs h

/-- Settles O17; `State.reset` is the case NINST = 1. -/
theorem portInvariantAtReset : Obligations.PortInvariantAtReset := by
  unfold Obligations.PortInvariantAtReset
  have legal (n : Nat) (h1 : 1 ≤ n) (h256 : n ≤ 256) : PortInv (State.resetWith n) :=
    portInv_resetWith ((ninstWf_iff n).2 ⟨h1, h256⟩)
  exact ⟨legal 1 (by decide) (by decide), legal⟩

end Sys2Proof.Machine

/-! Isolation of the engines (R2, R36, R48): a command writes only the engine it names (O19), sets its flag only by a
successful construct (O26), reads only that engine and its own operand (O20), and so disturbs no other stream (O21).
`exec_shape` reduces the eleven commands to the two shapes `pull` and `construct`. -/

namespace Sys2Proof.Machine

/-! ### The answers of a construct and a pull, one equation per case -/

section Shapes

variable {α : Type} {inst : InstNum} {seed : Option α} {build : α → Engines → Engines} {con : Engines → Bool}
  {advance : Engines → Engines} {out : Engines → Word} {s : State} {g : Engines}

theorem construct_of_missing (hg : s.engines inst = none) :
    construct inst seed build s = .next (raise .illegalCommand s) := by
  simp [construct, hg]

theorem construct_none (hg : s.engines inst = some g) :
    construct inst none build s = .next (raise .illegalOperand s) := by
  simp [construct, hg]

theorem construct_some (hg : s.engines inst = some g) (v : α) :
    construct inst (some v) build s = .next (respond 0#32 (s.setEngines inst (build v g))) := by
  simp [construct, hg]

theorem pull_of_missing (hg : s.engines inst = none) :
    pull inst con advance out s = .next (raise .illegalCommand s) := by
  simp [pull, hg]

theorem pull_of_unseeded (hg : s.engines inst = some g) (hc : con g = false) :
    pull inst con advance out s = .next (raise .unseeded s) := by
  simp [pull, hg, hc]

theorem pull_of_constructed (hg : s.engines inst = some g) (hc : con g = true) :
    pull inst con advance out s = .next (respond (out g) (s.setEngines inst (advance g))) := by
  simp [pull, hg, hc]

end Shapes

/-! ### One engine of a state -/

/-- The constructed flag of one engine (R26). -/
def flagOf : Spec.EngineState → Bool
  | .mt e => e.con
  | .xs e => e.con
  | .pcg e => e.con
  | .bbs e => e.con

@[simp] theorem flagOf_engine (g : Engines) (k : Kind) : flagOf (Spec.engine g k) = g.con k := by
  cases k <;> rfl

theorem con_eq_map_engineAt (s : State) (k : Kind) (a : InstNum) : s.con k a = (Spec.engineAt s k a).map flagOf := by
  simp [State.con, Spec.engineAt, Function.comp_def]

theorem engine_eq_of_agreeOutside {k k' : Kind} {g g' : Engines} (h : g.agreeOutside k g') (hk : k' ≠ k) :
    Spec.engine g' k' = Spec.engine g k' := by
  obtain ⟨hmt, hxs, hpcg, hbbs⟩ := h
  cases k' with
  | mt => exact congrArg _ (hmt hk.symm)
  | xs => exact congrArg _ (hxs hk.symm)
  | pcg => exact congrArg _ (hpcg hk.symm)
  | bbs => exact congrArg _ (hbbs hk.symm)

@[simp] theorem engineAt_respond (v : Word) (s : State) (k : Kind) (a : InstNum) :
    Spec.engineAt (respond v s) k a = Spec.engineAt s k a := rfl

@[simp] theorem engineAt_raise (e : CommandError) (s : State) (k : Kind) (a : InstNum) :
    Spec.engineAt (raise e s) k a = Spec.engineAt s k a := rfl

theorem engineAt_of_engines {s : State} {a : InstNum} {g : Engines} (hg : s.engines a = some g) (k : Kind) :
    Spec.engineAt s k a = some (Spec.engine g k) := by
  simp [Spec.engineAt, hg]

theorem engineAt_setEngines_self {s : State} {a : InstNum} {g : Engines} (hg : s.engines a = some g) (g' : Engines)
    (k : Kind) : Spec.engineAt (s.setEngines a g') k a = some (Spec.engine g' k) :=
  engineAt_of_engines (engines_setEngines_self hg) k

/-- R36: a write that replaces the engine of kind k alone is seen at no other engine. -/
theorem engineAt_setEngines_other {s : State} {a j : InstNum} {k k' : Kind} {g g' : Engines}
    (hg : s.engines a = some g) (hkeep : g.agreeOutside k g') (hother : k' ≠ k ∨ j ≠ a) :
    Spec.engineAt (s.setEngines a g') k' j = Spec.engineAt s k' j := by
  by_cases hj : j = a
  · subst hj
    have hk : k' ≠ k := hother.resolve_right (· rfl)
    rw [engineAt_setEngines_self hg, engineAt_of_engines hg, engine_eq_of_agreeOutside hkeep hk]
  · simp [Spec.engineAt, engines_setEngines_other hj]

/-- Two states that agree on an engine both lack its number, or both have it. -/
theorem engines_of_engineAt_eq {s t : State} {k : Kind} {a : InstNum}
    (h : Spec.engineAt s k a = Spec.engineAt t k a) :
    (s.engines a = none ∧ t.engines a = none) ∨
    (∃ g g', s.engines a = some g ∧ t.engines a = some g' ∧ Spec.engine g k = Spec.engine g' k) := by
  unfold Spec.engineAt at h
  cases hs : s.engines a <;> cases ht : t.engines a <;> simp_all

/-! ### What every command writes -/

theorem exec_isNext (i : Instr) (s : State) : ∃ t, exec i s = .next t := by
  rcases exec_cases i s with ⟨_, h⟩ | ⟨_, _, _, _, _, _, h⟩
  · exact ⟨_, h⟩
  · exact ⟨_, h⟩

theorem exec_engineAt_other {i : Instr} {s t : State} {k : Kind} {j : InstNum} (h : exec i s = .next t)
    (hother : k ≠ i.kind ∨ j ≠ i.inst) : Spec.engineAt t k j = Spec.engineAt s k j := by
  rcases exec_cases i s with ⟨e, he⟩ | ⟨g, g', v, hg, hkeep, _, he⟩
  · cases h.symm.trans he
    exact engineAt_raise e s k j
  · cases h.symm.trans he
    simpa using engineAt_setEngines_other hg hkeep hother

/-- A command leaves NINST, the input registers and the model's own two fields alone. -/
theorem exec_frame {i : Instr} {s t : State} (h : exec i s = .next t) :
    t.ninst = s.ninst ∧ t.cmd = s.cmd ∧ t.seedIn = s.seedIn ∧ t.entropyIn = s.entropyIn ∧ t.host = s.host ∧
      t.freeCount = s.freeCount := by
  rcases exec_cases i s with ⟨e, he⟩ | ⟨g, g', v, _, _, _, he⟩
  · cases h.symm.trans he
    simp
  · cases h.symm.trans he
    simp

theorem raise_rspStatus_ne_ok (e : CommandError) (s : State) : (raise e s).rspStatus ≠ okStatus := by
  cases e <;> simp [CommandError.status, okStatus]

/-- R118: an error changes no engine. -/
theorem exec_insts_of_error {i : Instr} {s t : State} (h : exec i s = .next t) (herr : t.rspStatus ≠ okStatus) :
    t.insts = s.insts := by
  rcases exec_cases i s with ⟨e, he⟩ | ⟨g, g', v, _, _, _, he⟩
  · cases h.symm.trans he
    exact raise_insts e s
  · cases h.symm.trans he
    exact absurd (respond_rspStatus v _) herr

/-- The named engine is constructed after every command that answers OK. -/
theorem exec_con_of_ok {i : Instr} {s t : State} (h : exec i s = .next t) (hok : t.rspStatus = okStatus) :
    t.con i.kind i.inst = some true := by
  rcases exec_cases i s with ⟨e, he⟩ | ⟨g, g', v, hg, _, hcon, he⟩
  · cases h.symm.trans he
    exact absurd hok (raise_rspStatus_ne_ok e s)
  · cases h.symm.trans he
    simp [con_eq_map_engineAt, engineAt_setEngines_self hg, hcon]

/-! ### What every command reads -/

/-- `f` reads the engine of kind k and no other. -/
def ReadsOnly {β : Type} (k : Kind) (f : Engines → β) : Prop :=
  ∀ g g' : Engines, Spec.engine g k = Spec.engine g' k → f g = f g'

theorem readsOnly_mt {β : Type} (f : MtEngine → β) : ReadsOnly .mt (fun g => f g.mt) :=
  fun _ _ h => congrArg f (Spec.EngineState.mt.inj h)
theorem readsOnly_xs {β : Type} (f : XsEngine → β) : ReadsOnly .xs (fun g => f g.xs) :=
  fun _ _ h => congrArg f (Spec.EngineState.xs.inj h)
theorem readsOnly_pcg {β : Type} (f : PcgEngine → β) : ReadsOnly .pcg (fun g => f g.pcg) :=
  fun _ _ h => congrArg f (Spec.EngineState.pcg.inj h)
theorem readsOnly_bbs {β : Type} (f : BbsEngine → β) : ReadsOnly .bbs (fun g => f g.bbs) :=
  fun _ _ h => congrArg f (Spec.EngineState.bbs.inj h)

theorem readsOnly_con (k : Kind) : ReadsOnly k (fun g => g.con k) := fun g g' h => by
  simpa using congrArg flagOf h

/-- The two states have the operand of `i` in common: SEED_IN for a SEED, ENTROPY_IN for a SEEDD (R58, R59). -/
def SameOperand (i : Instr) (s t : State) : Prop :=
  (i.op = .seed → s.seedIn = t.seedIn) ∧ (i.op = .seedd → s.entropyIn = t.entropyIn)

/-- `i` pulls: it checks the flag of the engine it names, and of the engines it reads and writes that one. -/
def IsPull (i : Instr) : Prop :=
  i.op = .next ∧ ∃ (advance : Engines → Engines) (out : Engines → Word),
    (∀ s, exec i s = pull i.inst (fun g => g.con i.kind) advance out s) ∧
    ReadsOnly i.kind (fun g => Spec.engine (advance g) i.kind) ∧ ReadsOnly i.kind out

/-- `i` constructs: its seed comes from its operand, and the engine it builds from the seed alone. -/
def IsConstruct (i : Instr) : Prop :=
  i.op ≠ .next ∧ ∃ (α : Type) (seed : State → Option α) (build : α → Engines → Engines),
    (∀ s, exec i s = construct i.inst (seed s) build s) ∧
    (∀ s t, SameOperand i s t → seed s = seed t) ∧
    ∀ v g g', Spec.engine (build v g) i.kind = Spec.engine (build v g') i.kind

/-- A SEED constructs from a function of SEED_IN. -/
theorem isConstruct_of_seed {α : Type} {i : Instr} (read : DWord → Option α) (build : α → Engines → Engines)
    (hop : i.op = .seed) (hexec : ∀ s, exec i s = construct i.inst (read s.seedIn) build s)
    (hbuild : ∀ v g g', Spec.engine (build v g) i.kind = Spec.engine (build v g') i.kind) : IsConstruct i :=
  ⟨by simp [hop], α, fun s => read s.seedIn, build, hexec, fun _ _ h => congrArg read (h.1 hop), hbuild⟩

/-- A SEEDD constructs from a function of ENTROPY_IN. -/
theorem isConstruct_of_seedd {α : Type} {i : Instr} (read : DWord → Option α) (build : α → Engines → Engines)
    (hop : i.op = .seedd) (hexec : ∀ s, exec i s = construct i.inst (read s.entropyIn) build s)
    (hbuild : ∀ v g g', Spec.engine (build v g) i.kind = Spec.engine (build v g') i.kind) : IsConstruct i :=
  ⟨by simp [hop], α, fun s => read s.entropyIn, build, hexec, fun _ _ h => congrArg read (h.2 hop), hbuild⟩

/-- Every command has one of the two shapes. -/
theorem exec_shape (i : Instr) : IsPull i ∨ IsConstruct i := by
  cases i with
  | mtNext a =>
    exact .inl ⟨rfl, _, _, fun _ => rfl, readsOnly_mt fun e => Spec.EngineState.mt (mtAdvance mtPairSplit e),
      readsOnly_mt fun e => mtOutput mtPairSplit e⟩
  | mtSeed a =>
    exact .inr (isConstruct_of_seed seed32 (fun v g => { g with mt := mtConstructed v })
      rfl (fun _ => rfl) fun _ _ _ => rfl)
  | xsNext a =>
    exact .inl ⟨rfl, _, _, fun _ => rfl, readsOnly_xs fun e => Spec.EngineState.xs ⟨xsStep e.st, e.con⟩,
      readsOnly_xs fun e => xsStep e.st⟩
  | xsSeed a =>
    exact .inr (isConstruct_of_seed seed32 (fun v g => { g with xs := xsConstructed v })
      rfl (fun _ => rfl) fun _ _ _ => rfl)
  | xsSeedd a =>
    exact .inr (isConstruct_of_seedd draw32 (fun v g => { g with xs := xsConstructed v })
      rfl (fun _ => rfl) fun _ _ _ => rfl)
  | pcgNext a =>
    exact .inl ⟨rfl, _, _, fun _ => rfl, readsOnly_pcg fun e => Spec.EngineState.pcg ⟨pcgLcg e.st, e.con⟩,
      readsOnly_pcg fun e => pcgPermute pcgXshTrunc (pcgLcg e.st)⟩
  | pcgSeed a =>
    exact .inr (isConstruct_of_seed seed64 (fun v g => { g with pcg := pcgConstructed v })
      rfl (fun _ => rfl) fun _ _ _ => rfl)
  | pcgSeedd a =>
    exact .inr (isConstruct_of_seedd draw64 (fun v g => { g with pcg := pcgConstructed v })
      rfl (fun _ => rfl) fun _ _ _ => rfl)
  | bbsNext a =>
    exact .inl ⟨rfl, _, _, fun _ => rfl, readsOnly_bbs fun e => Spec.EngineState.bbs ⟨bbsSquare e.st.val, e.con⟩,
      readsOnly_bbs fun e => BitVec.ofNat 32 (bbsSquare e.st.val).val⟩
  | bbsSeed a =>
    exact .inr (isConstruct_of_seed seed64 (fun v g => { g with bbs := bbsConstructed v })
      rfl (fun _ => rfl) fun _ _ _ => rfl)
  | bbsSeedd a =>
    exact .inr (isConstruct_of_seedd draw64 (fun v g => { g with bbs := bbsConstructed v })
      rfl (fun _ => rfl) fun _ _ _ => rfl)

/-- R117: a NEXT answers OK only on an engine that was constructed before. -/
theorem con_of_next_ok {i : Instr} {s t : State} (hop : i.op = .next) (h : exec i s = .next t)
    (hok : t.rspStatus = okStatus) : s.con i.kind i.inst = some true := by
  obtain ⟨_, advance, out, hexec, _, _⟩ := (exec_shape i).resolve_right fun hc => hc.1 hop
  rw [hexec] at h
  rcases pull_cases i.inst (fun g => g.con i.kind) advance out s with
    ⟨_, hp⟩ | ⟨_, _, _, hp⟩ | ⟨g, hg, hcon, _⟩
  · cases h.symm.trans hp
    exact absurd hok (raise_rspStatus_ne_ok _ s)
  · cases h.symm.trans hp
    exact absurd hok (raise_rspStatus_ne_ok _ s)
  · simpa [State.con, hg] using hcon

/-! ### Non-interference between two states -/

/-- Both outcomes are next states, with the same response and the same engine (k, a). -/
def SameAnswer (k : Kind) (a : InstNum) (o o' : Host.Outcome State Fault Refusal) : Prop :=
  ∃ s' t', o = .next s' ∧ o' = .next t' ∧ s'.rspStatus = t'.rspStatus ∧ s'.rspData = t'.rspData ∧
    Spec.engineAt s' k a = Spec.engineAt t' k a

section TwoStates

variable {k : Kind} {a : InstNum} {s t : State}

theorem sameAnswer_raise (e : CommandError) (heng : Spec.engineAt s k a = Spec.engineAt t k a) :
    SameAnswer k a (.next (raise e s)) (.next (raise e t)) :=
  ⟨_, _, rfl, rfl, rfl, rfl, heng⟩

theorem sameAnswer_respond {gs gt gs' gt' : Engines} {v v' : Word} (hs : s.engines a = some gs)
    (ht : t.engines a = some gt) (hv : v = v') (heng : Spec.engine gs' k = Spec.engine gt' k) :
    SameAnswer k a (.next (respond v (s.setEngines a gs'))) (.next (respond v' (t.setEngines a gt'))) :=
  ⟨_, _, rfl, rfl, rfl, hv, by simp [engineAt_setEngines_self hs, engineAt_setEngines_self ht, heng]⟩

theorem construct_sameAnswer {α : Type} {seed : Option α} {build : α → Engines → Engines}
    (heng : Spec.engineAt s k a = Spec.engineAt t k a)
    (hbuild : ∀ v g g', Spec.engine (build v g) k = Spec.engine (build v g') k) :
    SameAnswer k a (construct a seed build s) (construct a seed build t) := by
  rcases engines_of_engineAt_eq heng with ⟨hs, ht⟩ | ⟨gs, gt, hs, ht, _⟩
  · rw [construct_of_missing hs, construct_of_missing ht]
    exact sameAnswer_raise _ heng
  · cases seed with
    | none =>
      rw [construct_none hs, construct_none ht]
      exact sameAnswer_raise _ heng
    | some v =>
      rw [construct_some hs, construct_some ht]
      exact sameAnswer_respond hs ht rfl (hbuild v gs gt)

theorem pull_sameAnswer {con : Engines → Bool} {advance : Engines → Engines} {out : Engines → Word}
    (heng : Spec.engineAt s k a = Spec.engineAt t k a) (hcon : ReadsOnly k con)
    (hadvance : ReadsOnly k fun g => Spec.engine (advance g) k) (hout : ReadsOnly k out) :
    SameAnswer k a (pull a con advance out s) (pull a con advance out t) := by
  rcases engines_of_engineAt_eq heng with ⟨hs, ht⟩ | ⟨gs, gt, hs, ht, hg⟩
  · rw [pull_of_missing hs, pull_of_missing ht]
    exact sameAnswer_raise _ heng
  · have hct : con gs = con gt := hcon gs gt hg
    cases hc : con gs with
    | false =>
      rw [pull_of_unseeded hs hc, pull_of_unseeded ht (hct ▸ hc)]
      exact sameAnswer_raise _ heng
    | true =>
      rw [pull_of_constructed hs hc, pull_of_constructed ht (hct ▸ hc)]
      exact sameAnswer_respond hs ht (hout gs gt hg) (hadvance gs gt hg)

/-- R36 (reads): the answer is a function of the named engine and the command's own operand. -/
theorem exec_sameAnswer {i : Instr} (heng : Spec.engineAt s i.kind i.inst = Spec.engineAt t i.kind i.inst)
    (hoperand : SameOperand i s t) : SameAnswer i.kind i.inst (exec i s) (exec i t) := by
  rcases exec_shape i with ⟨_, advance, out, hexec, hadvance, hout⟩ | ⟨_, α, seed, build, hexec, hseed, hbuild⟩
  · rw [hexec, hexec]
    exact pull_sameAnswer heng (readsOnly_con i.kind) hadvance hout
  · rw [hexec, hexec, hseed s t hoperand]
    exact construct_sameAnswer heng hbuild

end TwoStates

/-! ### Streams -/

theorem names_iff (k : Kind) (a : InstNum) (c : Spec.Tuple) :
    c.names k a = true ↔ c.instr.kind = k ∧ c.instr.inst = a := by
  simp [Spec.Tuple.names]

/-- The state in which the command of a tuple runs: its operands have been sampled (R135). -/
def withOperands (c : Spec.Tuple) (s : State) : State := { s with seedIn := c.seedIn, entropyIn := c.entropyIn }

@[simp] theorem engineAt_withOperands (c : Spec.Tuple) (s : State) (k : Kind) (a : InstNum) :
    Spec.engineAt (withOperands c s) k a = Spec.engineAt s k a := rfl

theorem sameOperand_withOperands (c : Spec.Tuple) (s t : State) :
    SameOperand c.instr (withOperands c s) (withOperands c t) := ⟨fun _ => rfl, fun _ => rfl⟩

theorem responsesOf_cons_named {k : Kind} {a : InstNum} {c : Spec.Tuple} {s t : State} (hn : c.names k a = true)
    (h : exec c.instr (withOperands c s) = .next t) (cs : List Spec.Tuple) :
    Spec.responsesOf k a (c :: cs) s = ⟨t.rspStatus, t.rspData⟩ :: Spec.responsesOf k a cs t := by
  unfold withOperands at h
  simp [Spec.responsesOf, h, hn]

theorem responsesOf_cons_other {k : Kind} {a : InstNum} {c : Spec.Tuple} {s t : State} (hn : c.names k a = false)
    (h : exec c.instr (withOperands c s) = .next t) (cs : List Spec.Tuple) :
    Spec.responsesOf k a (c :: cs) s = Spec.responsesOf k a cs t := by
  unfold withOperands at h
  simp [Spec.responsesOf, h, hn]

/-- R48: the responses of one engine are those of its own commands alone, from any state that agrees on that engine. -/
theorem responsesOf_eq_filter {k : Kind} {a : InstNum} (cs : List Spec.Tuple) {s t : State}
    (heng : Spec.engineAt s k a = Spec.engineAt t k a) :
    Spec.responsesOf k a cs s = Spec.responsesOf k a (cs.filter (Spec.Tuple.names k a)) t := by
  induction cs generalizing s t with
  | nil => rfl
  | cons c cs ih =>
    cases hn : c.names k a with
    | true =>
      obtain ⟨rfl, rfl⟩ := (names_iff k a c).1 hn
      obtain ⟨s', t', hs, ht, hstatus, hdata, heng'⟩ :=
        exec_sameAnswer (s := withOperands c s) (t := withOperands c t) heng (sameOperand_withOperands c s t)
      rw [List.filter_cons_of_pos hn, responsesOf_cons_named hn hs, responsesOf_cons_named hn ht,
        hstatus, hdata, ih heng']
    | false =>
      obtain ⟨s', hs⟩ := exec_isNext c.instr (withOperands c s)
      have hother : k ≠ c.instr.kind ∨ a ≠ c.instr.inst := by
        by_contra hsame
        push Not at hsame
        obtain ⟨hkind, hinst⟩ := hsame
        simp [(names_iff k a c).2 ⟨hkind.symm, hinst.symm⟩] at hn
      have hkept : Spec.engineAt s' k a = Spec.engineAt (withOperands c s) k a := exec_engineAt_other hs hother
      rw [List.filter_cons_of_neg (by simp [hn]), responsesOf_cons_other hn hs, ih (hkept.trans heng)]

/-! ### The obligations -/

/-- Settles O19, by what every command can answer. -/
theorem commandWritesOnlyTheNamedEngine : Obligations.CommandWritesOnlyTheNamedEngine := by
  unfold Obligations.CommandWritesOnlyTheNamedEngine
  intro i s t h
  obtain ⟨hninst, hregs⟩ := exec_frame h
  exact ⟨hninst, fun _ _ hother => exec_engineAt_other h hother, hregs⟩

/-- Settles O20, by the two shapes of a command. -/
theorem commandReadsOnlyTheNamedEngineAndItsOperand : Obligations.CommandReadsOnlyTheNamedEngineAndItsOperand := by
  unfold Obligations.CommandReadsOnlyTheNamedEngineAndItsOperand
  intro i s t s' t' heng hseed hentropy hs ht
  obtain ⟨s₁, t₁, hs₁, ht₁, hanswer⟩ := exec_sameAnswer heng ⟨hseed, hentropy⟩
  cases hs.symm.trans hs₁
  cases ht.symm.trans ht₁
  exact hanswer

/-- Settles O21, by induction on the sequence, over two states that agree on the one engine. -/
theorem interleavingChangesNoStream : Obligations.InterleavingChangesNoStream := by
  unfold Obligations.InterleavingChangesNoStream
  intro k a cs s
  exact responsesOf_eq_filter cs rfl

/-- Settles O26: of the named engine the flag is 1 after OK, and a NEXT that answers OK found it 1. -/
theorem onlyASuccessfulConstructSetsTheFlag : Obligations.OnlyASuccessfulConstructSetsTheFlag := by
  unfold Obligations.OnlyASuccessfulConstructSetsTheFlag
  intro i s t k j h
  change t.con k j =
    if i.op ≠ .next ∧ i.kind = k ∧ i.inst = j ∧ t.rspStatus = okStatus then some true else s.con k j
  by_cases hnamed : i.kind = k ∧ i.inst = j
  · obtain ⟨rfl, rfl⟩ := hnamed
    by_cases hok : t.rspStatus = okStatus
    · rw [exec_con_of_ok h hok]
      by_cases hop : i.op = .next
      · simp [hop, con_of_next_ok hop h hok]
      · simp [hop, hok]
    · simp [hok, State.con, State.engines, exec_insts_of_error h hok]
  · have hother : k ≠ i.kind ∨ j ≠ i.inst := by
      by_contra hsame
      push Not at hsame
      obtain ⟨hkind, hinst⟩ := hsame
      exact hnamed ⟨hkind.symm, hinst.symm⟩
    rw [if_neg fun ⟨_, hkind, hinst, _⟩ => hnamed ⟨hkind, hinst⟩, con_eq_map_engineAt, con_eq_map_engineAt,
      exec_engineAt_other h hother]

end Sys2Proof.Machine

/-! Acceptance (R28, R136) and the reset values (R37, R130): O10 and O16. -/

namespace Sys2Proof.Machine

/-- R136: a ready block accepts the command that is presented. -/
theorem step_of_command {s : State} {c : Word} {d e : DWord} {rest : List HostInput}
    (hh : s.host = .command c d e :: rest) (hr : s.cmdReady = true) :
    step s = .next (acceptCommand c d e rest s) := by
  simp [step, portStep, hh, hr]

/-- R37: no engine of the reset state is constructed. -/
theorem con_of_mem_resetWith {n : Nat} {g : Engines} (hg : g ∈ (State.resetWith n).insts) (k : Kind) :
    g.con k = false := by
  obtain rfl : g = Engines.reset := List.eq_of_mem_replicate hg
  exact con_engines_reset k

/-- Settles O10: the state it names is `acceptCommand`. -/
theorem acceptanceSamplesTheTuple : Obligations.AcceptanceSamplesTheTuple := by
  unfold Obligations.AcceptanceSamplesTheTuple
  intro s c d e rest hh hr
  exact ⟨_, step_of_command hh hr, by simp⟩

/-- Settles O16; the flags are those of `Engines.reset`, the output registers those of `State.resetWith`. -/
theorem resetValues : Obligations.ResetValues := by
  unfold Obligations.ResetValues
  intro n
  exact ⟨resetWith_ninst n, fun _ hg k => con_of_mem_resetWith hg k, rfl, rfl, rfl, rfl⟩

end Sys2Proof.Machine

/-! Memory (20_memory.md): the beat order of a 32-bit adapter (R41, O8), and a repeated SEED (R45, O23). A SEED is a
`construct` whose seed is a function of SEED_IN and whose `build` is idempotent; `construct` is then idempotent too. -/

namespace Sys2Proof.Machine

/-! ### Writes that are written over -/

theorem raise_raise (e e' : CommandError) (s : State) : raise e (raise e' s) = raise e s := rfl

/-- An answer already at the port is lost when the next command on the same instance writes its engines and answers. -/
theorem respond_setEngines_respond_setEngines (s : State) (inst : InstNum) (g g' : Engines) (v v' : Word) :
    respond v (State.setEngines (respond v' (s.setEngines inst g')) inst g) = respond v (s.setEngines inst g) := by
  simp [respond, writeResponse, State.setEngines]

/-! ### A repeated construct -/

/-- A construct repeated with the same seed changes nothing where the engines it builds are those it would build from
them again. -/
theorem construct_idempotent {α : Type} {inst : InstNum} {seed : Option α} {build : α → Engines → Engines} {s t : State}
    (hbuild : ∀ v g, build v (build v g) = build v g) (h : construct inst seed build s = .next t) :
    construct inst seed build t = .next t := by
  rcases construct_cases inst seed build s with ⟨hg, hc⟩ | ⟨g, hg, rfl, hc⟩ | ⟨g, v, hg, rfl, hc⟩
  · cases h.symm.trans hc
    rw [construct_of_missing (by simpa using hg), raise_raise]
  · cases h.symm.trans hc
    rw [construct_none (by simpa using hg), raise_raise]
  · cases h.symm.trans hc
    have hbuilt : State.engines (respond 0#32 (s.setEngines inst (build v g))) inst = some (build v g) := by
      simpa using engines_setEngines_self hg
    rw [construct_some hbuilt, hbuild, respond_setEngines_respond_setEngines]

/-- `i` constructs from SEED_IN, and to build the same engine twice is to build it once. -/
def IsSeed (i : Instr) : Prop :=
  ∃ (α : Type) (read : DWord → Option α) (build : α → Engines → Engines),
    (∀ s, exec i s = construct i.inst (read s.seedIn) build s) ∧ ∀ v g, build v (build v g) = build v g

/-- R58: every SEED is such a command, one case per kind. -/
theorem isSeed_of_op {i : Instr} (hop : i.op = .seed) : IsSeed i := by
  cases i with
  | mtSeed a => exact ⟨_, seed32, fun v g => { g with mt := mtConstructed v }, fun _ => rfl, fun _ _ => rfl⟩
  | xsSeed a => exact ⟨_, seed32, fun v g => { g with xs := xsConstructed v }, fun _ => rfl, fun _ _ => rfl⟩
  | pcgSeed a => exact ⟨_, seed64, fun v g => { g with pcg := pcgConstructed v }, fun _ => rfl, fun _ _ => rfl⟩
  | bbsSeed a => exact ⟨_, seed64, fun v g => { g with bbs := bbsConstructed v }, fun _ => rfl, fun _ _ => rfl⟩
  | mtNext a | xsNext a | xsSeedd a | pcgNext a | pcgSeedd a | bbsNext a | bbsSeedd a => nomatch hop

/-- R45: after a SEED, the same SEED answers the state it finds; SEED_IN is its operand both times. -/
theorem exec_seed_again {i : Instr} {s t : State} (hop : i.op = .seed) (h : exec i s = .next t) :
    exec i t = .next t := by
  obtain ⟨α, read, build, hexec, hbuild⟩ := isSeed_of_op hop
  obtain ⟨_, _, hseedIn, _⟩ := exec_frame h
  rw [hexec] at h
  rw [hexec, hseedIn]
  exact construct_idempotent hbuild h

/-! ### The obligations -/

/-- Settles O8: the second beat is appended above the 32 bits of the first. -/
theorem adapterSendsTheLowHalfFirst : Obligations.AdapterSendsTheLowHalfFirst := by
  unfold Obligations.AdapterSendsTheLowHalfFirst
  intro first second
  calc (fromBeats first second).toNat
      = second.toNat <<< 32 ||| first.toNat := BitVec.toNat_append second first
    _ = second.toNat * 2 ^ 32 + first.toNat := by
      rw [← Nat.shiftLeft_add_eq_or_of_lt first.isLt, Nat.shiftLeft_eq]

/-- Settles O23: the repeated SEED can answer no other state than the one it finds. -/
theorem seedIsIdempotent : Obligations.SeedIsIdempotent := by
  unfold Obligations.SeedIsIdempotent
  intro i s t u hop ht hu
  exact Host.Outcome.next.inj (hu.symm.trans (exec_seed_again hop ht))

end Sys2Proof.Machine

/-! Encoding (30_encoding.md R53..R62): a command word is its five fields, so `decode` and `encode` are inverse on the
commands of the part (R61, O4), and the legal words are one per row of the opcode map and instance (R62, O5). The fixed
words (O1, O2, O3), the assembler (O7) and the step on a word in flight (O9) follow from these facts. -/

namespace Sys2Proof

/-! ### A word is its five fields (R53) -/

theorem rsv1Field_encode (i : Instr) : rsv1Field (encode i) = 0 := by
  unfold rsv1Field encode
  rw [BitVec.extractLsb'_append_eq_of_le (v := 30) (w := 2) (by decide), BitVec.extractLsb'_append_eq_of_le (by decide),
    BitVec.extractLsb'_append_eq_of_le (by decide), BitVec.extractLsb'_append_eq_left]
  rfl

theorem rsv0Field_encode (i : Instr) : rsv0Field (encode i) = 0 := by
  unfold rsv0Field encode
  rw [BitVec.extractLsb'_append_eq_of_le (v := 30) (w := 2) (by decide), BitVec.extractLsb'_append_eq_of_le (by decide),
    BitVec.extractLsb'_append_eq_right]
  rfl

theorem fields_append (w : Word) :
    (rsv1Field w ++ instField w ++ rsv0Field w ++ opField w ++ engField w : BitVec (16 + 8 + 4 + 2 + 2)) = w := by
  unfold rsv1Field instField rsv0Field opField engField
  rw [BitVec.extractLsb'_append_extractLsb'_eq_extractLsb' (show 16 = 8 + 8 from rfl),
    BitVec.extractLsb'_append_extractLsb'_eq_extractLsb' (show 8 = 4 + 4 from rfl),
    BitVec.extractLsb'_append_extractLsb'_eq_extractLsb' (show 4 = 2 + 2 from rfl),
    BitVec.extractLsb'_append_extractLsb'_eq_extractLsb' (show 2 = 0 + 2 from rfl)]
  exact BitVec.extractLsb'_eq_self

theorem encode_eq_iff (i : Instr) (w : Word) : encode i = w ↔
    rsv1Field w = 0 ∧ rsv0Field w = 0 ∧ opField w = opBits i.op ∧ engField w = kindField i.kind ∧
      instField w = i.inst := by
  constructor
  · rintro rfl
    exact ⟨rsv1Field_encode i, rsv0Field_encode i, opField_encode i, engField_encode i, instField_encode i⟩
  · rintro ⟨hrsv1, hrsv0, hop, heng, hinst⟩
    rw [← fields_append w, hrsv1, hrsv0, hop, heng, hinst]
    rfl

/-! ### What the fields select (R54, R55, R60) -/

theorem kindField_kindOfField : ∀ b, kindField (kindOfField b) = b := by decide

theorem opBits_of_opOfField {o : Op} : ∀ {b}, opOfField b = some o → opBits o = b := by
  cases o <;> decide

/-- R55: every OP value but 00 is the OP field of an operation. -/
theorem exists_opBits_iff (b : BitVec 2) : (∃ o, opBits o = b) ↔ b ≠ 0 := by
  constructor
  · rintro ⟨o, rfl⟩
    cases o <;> decide
  · intro hb
    have hsome : ∀ b : BitVec 2, b ≠ 0 → opOfField b ≠ none := by decide
    obtain ⟨o, ho⟩ := Option.ne_none_iff_exists'.1 (hsome b hb)
    exact ⟨o, opBits_of_opOfField ho⟩

theorem eq_of_instrOf_eq_some {o : Op} {k : Kind} {a : InstNum} {i : Instr} (h : instrOf o k a = some i) :
    i.op = o ∧ i.kind = k ∧ i.inst = a := by
  cases o <;> cases k <;> cases h <;> exact ⟨rfl, rfl, rfl⟩

theorem instr_ext {i j : Instr} (hop : i.op = j.op) (hkind : i.kind = j.kind) (hinst : i.inst = j.inst) : i = j :=
  Option.some.inj <| by rw [← instrOf_fields i, hop, hkind, hinst, instrOf_fields]

/-- R60: the opcode map has a command for every operation and kind but MT.SEEDD. -/
theorem instrOf_eq_none_iff (o : Op) (k : Kind) (a : InstNum) : instrOf o k a = none ↔ o = .seedd ∧ k = .mt := by
  cases o <;> cases k <;> simp [instrOf]

theorem exists_instr_iff (o : Op) (k : Kind) (a : InstNum) :
    (∃ i : Instr, i.op = o ∧ i.kind = k ∧ i.inst = a) ↔ ¬ (o = .seedd ∧ k = .mt) := by
  rw [← instrOf_eq_none_iff o k a]
  constructor
  · rintro ⟨i, rfl, rfl, rfl⟩
    simp [instrOf_fields]
  · intro h
    obtain ⟨i, hi⟩ := Option.ne_none_iff_exists'.1 h
    exact ⟨i, eq_of_instrOf_eq_some hi⟩

/-! ### Decoding (R61) -/

theorem wf_iff (n : Nat) (i : Instr) : i.wf n = true ↔ i.inst.toNat < n := by
  simp [Instr.wf]

theorem decode_encode {i : Instr} {n : Nat} (h : i.inst.toNat < n) : decode (encode i) n = .ok i := by
  simp [decode, rsv1Field_encode, rsv0Field_encode, opField_encode, engField_encode, instField_encode,
    opOfField_opBits, kindOfField_kindField, instrOf_fields, (wf_iff n i).2 h]

/-- R61, read backwards: a word that decodes passed the four checks. -/
theorem encode_of_decode {w : Word} {n : Nat} {i : Instr} (h : decode w n = .ok i) :
    i.inst.toNat < n ∧ encode i = w := by
  unfold decode at h
  split at h
  · cases h
  next hrsv =>
    push Not at hrsv
    obtain ⟨hrsv1, hrsv0⟩ := hrsv
    split at h
    · cases h
    next o ho =>
      split at h
      · cases h
      next j hj =>
        split at h
        · cases h
          obtain ⟨hop, hkind, hinst⟩ := eq_of_instrOf_eq_some hj
          refine ⟨(wf_iff n i).1 ‹_›, (encode_eq_iff i w).2 ⟨hrsv1, hrsv0, ?_, ?_, hinst.symm⟩⟩
          · rw [hop, opBits_of_opOfField ho]
          · rw [hkind, kindField_kindOfField]
        · cases h

theorem decode_eq_ok_iff (w : Word) (n : Nat) (i : Instr) :
    decode w n = .ok i ↔ i.inst.toNat < n ∧ encode i = w := by
  constructor
  · exact encode_of_decode
  · rintro ⟨hn, rfl⟩
    exact decode_encode hn

/-- Two commands with one word are the one command that the word decodes to on the largest part. -/
theorem encode_injective : Function.Injective encode := fun i j h => by
  have hi : decode (encode i) Config.ninstMax = .ok i := decode_encode i.inst.isLt
  have hj : decode (encode j) Config.ninstMax = .ok j := decode_encode j.inst.isLt
  exact Except.ok.inj (hi.symm.trans (h ▸ hj))

/-! ### Illegal words (R62) -/

theorem toOption_eq_none_iff {ε α : Type} (x : Except ε α) : x.toOption = none ↔ ¬ ∃ a, x = .ok a := by
  cases x <;> simp [Except.toOption]

/-- The list of R62, read off the fields of the word. -/
theorem illegalWord_iff (w : Word) (n : Nat) : Spec.illegalWord w.toNat n ↔
    rsv1Field w ≠ 0 ∨ rsv0Field w ≠ 0 ∨ opField w = 0 ∨ (opField w = 0b11#2 ∧ engField w = 0) ∨
      n ≤ (instField w).toNat := by
  have hrsv1 : w.toNat / 2 ^ 16 % 2 ^ 16 = w.toNat / 2 ^ 16 := by have := w.isLt; omega
  simp only [Spec.illegalWord, ne_eq, ← BitVec.toNat_inj, rsv1Field, rsv0Field, opField, engField, instField,
    BitVec.extractLsb'_toNat, Nat.shiftRight_eq_div_pow, hrsv1]
  simp

/-- R62: a word is legal exactly when it decodes to some command. -/
theorem exists_decode_iff (w : Word) (n : Nat) : (∃ i, decode w n = .ok i) ↔ ¬ Spec.illegalWord w.toNat n := by
  rw [illegalWord_iff]
  push Not
  simp only [decode_eq_ok_iff, encode_eq_iff]
  constructor
  · rintro ⟨i, hn, hrsv1, hrsv0, hop, heng, hinst⟩
    refine ⟨hrsv1, hrsv0, (exists_opBits_iff _).1 ⟨i.op, hop.symm⟩, ?_, hinst ▸ hn⟩
    rw [hop, heng]
    cases i <;> simp [Instr.op, Instr.kind, opBits, kindField]
  · rintro ⟨hrsv1, hrsv0, hop, hmt, hn⟩
    obtain ⟨o, ho⟩ := (exists_opBits_iff _).2 hop
    have hrow : ¬ (o = .seedd ∧ kindOfField (engField w) = .mt) := by
      rintro ⟨rfl, hk⟩
      refine hmt ho.symm ?_
      rw [← kindField_kindOfField (engField w), hk]
      rfl
    obtain ⟨i, rfl, hkind, hinst⟩ := (exists_instr_iff o _ (instField w)).2 hrow
    exact ⟨i, hinst ▸ hn, hrsv1, hrsv0, ho.symm, by rw [hkind, kindField_kindOfField], hinst.symm⟩

theorem decode_toOption_eq_none_iff (w : Word) (n : Nat) :
    (decode w n).toOption = none ↔ Spec.illegalWord w.toNat n := by
  rw [toOption_eq_none_iff, exists_decode_iff, not_not]

/-! ### How many words are legal (R62) -/

/-- The rows of the opcode map: every operation on every kind, but for MT.SEEDD (R60). -/
def opcodeRows : Finset (Op × Kind) :=
  (({.next, .seed, .seedd} : Finset Op) ×ˢ ({.mt, .xs, .pcg, .bbs} : Finset Kind)).erase (.seedd, .mt)

theorem mem_opcodeRows (r : Op × Kind) : r ∈ opcodeRows ↔ ¬ (r.1 = .seedd ∧ r.2 = .mt) := by
  obtain ⟨o, k⟩ := r
  cases o <;> cases k <;> decide

theorem card_opcodeRows : opcodeRows.card = 11 := rfl

theorem ncard_inst_lt {n : Nat} (hn : n ≤ 256) : { a : InstNum | a.toNat < n }.ncard = n := by
  have hbij : Set.BijOn BitVec.toNat { a : InstNum | a.toNat < n } (Finset.range n) := by
    refine ⟨fun a ha => by simpa using ha, fun _ _ _ _ h => BitVec.eq_of_toNat_eq h, fun m hm => ?_⟩
    have hlt : m < n := by simpa using hm
    have hm256 : (BitVec.ofNat 8 m).toNat = m := by rw [BitVec.toNat_ofNat, Nat.mod_eq_of_lt (hlt.trans_le hn)]
    exact ⟨BitVec.ofNat 8 m, by simpa [hm256] using hlt, hm256⟩
  rw [hbij.ncard_eq, Set.ncard_coe_finset, Finset.card_range]

/-- A part's commands are the rows of the opcode map on each of its instances. -/
theorem ncard_instr_lt {n : Nat} (hn : n ≤ 256) : { i : Instr | i.inst.toNat < n }.ncard = 11 * n := by
  have hbij : Set.BijOn (fun i : Instr => ((i.op, i.kind), i.inst)) { i | i.inst.toNat < n }
      ((opcodeRows : Set (Op × Kind)) ×ˢ { a : InstNum | a.toNat < n }) := by
    refine ⟨fun i hi => ⟨?_, hi⟩, fun i _ j _ h => ?_, ?_⟩
    · exact (mem_opcodeRows _).2 ((exists_instr_iff i.op i.kind i.inst).1 ⟨i, rfl, rfl, rfl⟩)
    · simp only [Prod.mk.injEq] at h
      obtain ⟨⟨hop, hkind⟩, hinst⟩ := h
      exact instr_ext hop hkind hinst
    · rintro ⟨⟨o, k⟩, a⟩ ⟨hrow, ha⟩
      obtain ⟨i, rfl, rfl, rfl⟩ := (exists_instr_iff o k a).2 ((mem_opcodeRows _).1 hrow)
      exact ⟨i, ha, rfl⟩
  rw [hbij.ncard_eq, Set.ncard_prod, Set.ncard_coe_finset, card_opcodeRows, ncard_inst_lt hn]

theorem encode_image_eq (n : Nat) :
    encode '' { i : Instr | i.inst.toNat < n } = { w : Word | ¬ Spec.illegalWord w.toNat n } := by
  ext w
  simp only [Set.mem_image, Set.mem_ofPred_eq, ← exists_decode_iff, decode_eq_ok_iff]

theorem ncard_legal_words {n : Nat} (hn : n ≤ 256) : { w : Word | ¬ Spec.illegalWord w.toNat n }.ncard = 11 * n := by
  rw [← encode_image_eq, Set.ncard_image_of_injective _ encode_injective, ncard_instr_lt hn]

end Sys2Proof

namespace Sys2Proof.Machine

/-! ### A command word in flight -/

theorem step_of_inFlight {s : State} (hrst : s.rst = false) (hready : s.cmdReady = false) :
    step s = completeCommand s := by
  rcases step_cases s with ⟨_, hh, _⟩ | ⟨_, _, h⟩ | ⟨_, _, _, _, _, hr, _⟩ | ⟨_, _, hr, _⟩ | ⟨_, hr, _⟩
  · simp [State.rst, hh] at hrst
  · exact h
  all_goals simp [hready] at hr

theorem completeCommand_of_decode {s : State} {i : Instr} (h : decode s.cmd s.ninst = .ok i) :
    completeCommand s = exec i s := by
  simp [completeCommand, h]

/-- R115: an illegal word is answered ILLEGAL_COMMAND. -/
theorem completeCommand_of_illegalWord {s : State} (h : Spec.illegalWord s.cmd.toNat s.ninst) :
    completeCommand s = .next (raise .illegalCommand s) := by
  rcases completeCommand_cases s with ⟨i, hi, _⟩ | ⟨_, _, hraise⟩
  · exact absurd h ((exists_decode_iff _ _).1 ⟨i, hi⟩)
  · exact hraise

/-! ### The assembler (R65, R66) -/

theorem asmCommand_instr (e : DWord) (i : Instr) (v : Nat) :
    asmCommand e i.op i.kind i.inst v = .ok [.command (encode i) (BitVec.ofNat 64 v) e] := by
  simp [asmCommand, instrOf_fields]

theorem asmCommand_of_op {i : Instr} {o : Op} (e : DWord) (v : Nat) (hop : i.op = o) :
    asmCommand e o i.kind i.inst v = .ok [.command (encode i) (BitVec.ofNat 64 v) e] :=
  hop ▸ asmCommand_instr e i v

theorem asmCommand_eq_error_iff (e : DWord) (o : Op) (k : Kind) (a : InstNum) (v : Nat) (err : AsmError) :
    asmCommand e o k a v = .error err ↔ err = .mtSeedNotOptional ∧ o = .seedd ∧ k = .mt := by
  rw [← instrOf_eq_none_iff o k a]
  cases h : instrOf o k a <;> simp [asmCommand, h, eq_comm]

theorem seedWidth_eq (k : Kind) : seedWidth k = if k = .mt ∨ k = .xs then 32 else 64 := by
  cases k <;> rfl

theorem seedWidth_le (k : Kind) : seedWidth k ≤ 64 := by cases k <;> decide

/-- The literal of a fitting seed line stands on SEED_IN unchanged. -/
theorem asmSeed_of_fits {i : Instr} {v : Nat} (e : DWord) (hop : i.op = .seed) (hfits : v < 2 ^ seedWidth i.kind) :
    ∃ d : DWord, d.toNat = v ∧ asmSeed e i.kind i.inst v = .ok [.command (encode i) d e] := by
  have hv : v < 2 ^ 64 := hfits.trans_le (Nat.pow_le_pow_right (by decide) (seedWidth_le i.kind))
  refine ⟨BitVec.ofNat 64 v, by rw [BitVec.toNat_ofNat, Nat.mod_eq_of_lt hv], ?_⟩
  rw [asmSeed, if_pos hfits, asmCommand_of_op e v hop]

theorem asmSeed_eq_seedTooWide_iff (e : DWord) (k : Kind) (a : InstNum) (v : Nat) :
    asmSeed e k a v = .error .seedTooWide ↔ ¬ v < 2 ^ seedWidth k := by
  by_cases hfits : v < 2 ^ seedWidth k <;> simp [asmSeed, hfits, asmCommand_eq_error_iff]

theorem assemble_pull {i : Instr} {count : Nat} (e : DWord) (hop : i.op = .next) (hcount : 1 ≤ count) :
    assemble e (.pull i.kind i.inst count) = .ok (List.replicate count (.command (encode i) 0#64 e)) := by
  obtain ⟨m, rfl⟩ := Nat.exists_eq_add_of_le' hcount
  simp only [assemble, asmCommand_of_op e 0 hop, Except.map, List.flatten_replicate_singleton]

/-! ### The obligations -/

/-- Settles O4, by the fields of a word. -/
theorem decodeAgreesWithEncode : Obligations.DecodeAgreesWithEncode := by
  unfold Obligations.DecodeAgreesWithEncode
  exact decode_eq_ok_iff

/-- Settles O5; the count is that of the commands, which `encode` takes one to one to the legal words. -/
theorem illegalWordsAreExactlyTheListedOnes : Obligations.IllegalWordsAreExactlyTheListedOnes := by
  unfold Obligations.IllegalWordsAreExactlyTheListedOnes
  intro n _ hn
  refine ⟨fun w => decode_toOption_eq_none_iff w n, ?_, ncard_legal_words hn⟩
  rintro s rfl hrst hready hillegal
  rw [step_of_inFlight hrst hready, completeCommand_of_illegalWord hillegal]
  rfl

/-- Settles O1: a line presents the encoded command of its row, and `encode` gives the stated word. -/
theorem encodingExamplesAssembleAndDecode : Obligations.EncodingExamplesAssembleAndDecode := by
  unfold Obligations.EncodingExamplesAssembleAndDecode
  refine ⟨fun e => ?_, fun n hn => (decode_eq_ok_iff _ _ _).2 ⟨hn, by decide⟩⟩
  exact ⟨asmCommand_instr e (.mtSeed 0) 42, asmCommand_instr e (.mtNext 0) 0,
    asmCommand_instr e (.xsSeed 0) 42, asmCommand_instr e (.xsSeedd 0) 0, asmCommand_instr e (.xsNext 0) 0,
    asmCommand_instr e (.pcgSeed 0) 42, asmCommand_instr e (.pcgSeedd 0) 0, asmCommand_instr e (.pcgNext 0) 0,
    asmCommand_instr e (.bbsSeed 0) 42, asmCommand_instr e (.bbsSeedd 0) 0, asmCommand_instr e (.bbsNext 0) 0,
    asmCommand_instr e (.pcgNext 3) 0⟩

/-- Settles O2: each word is the encoded command of its row. -/
theorem opcodeMapWordsDecode : Obligations.OpcodeMapWordsDecode := by
  unfold Obligations.OpcodeMapWordsDecode
  simp only [decode_eq_ok_iff]
  decide

/-- Settles O3: OP = 00, MT.SEEDD, a bit in each reserved field, and INST = 1 on a part with NINST = 1. -/
theorem wordsIllegalUnderEveryInstanceCount : Obligations.WordsIllegalUnderEveryInstanceCount := by
  unfold Obligations.WordsIllegalUnderEveryInstanceCount
  simp only [decode_toOption_eq_none_iff, illegalWord_iff]
  refine ⟨fun n => ⟨.inr (.inr (.inl ?_)), .inr (.inr (.inr (.inl ?_))), .inr (.inl ?_), .inl ?_⟩,
    .inr (.inr (.inr (.inr ?_)))⟩
  all_goals decide

/-- Settles O7; a construct line and a pull of 0 are what `assemble` says of them. -/
theorem assemblerFollowsTheForms : Obligations.AssemblerFollowsTheForms := by
  unfold Obligations.AssemblerFollowsTheForms
  intro e k a v
  rw [← seedWidth_eq]
  refine ⟨?_, asmSeed_eq_seedTooWide_iff e k a v, ?_, rfl, rfl, rfl, fun _ => rfl⟩
  · rintro i rfl rfl
    exact ⟨asmCommand_of_op e 0, asmSeed_of_fits e, asmCommand_of_op e 0, assemble_pull e⟩
  · simp [assemble, asmCommand_eq_error_iff]

/-- Settles O9: nothing but the completion of the command in flight is due. -/
theorem stepRunsTheDecodedCommand : Obligations.StepRunsTheDecodedCommand := by
  unfold Obligations.StepRunsTheDecodedCommand
  intro s i hrst hready hdecode
  rw [step_of_inFlight hrst hready, completeCommand_of_decode hdecode]

end Sys2Proof.Machine

/-! Progress and streams: every command and every step answers a next state (O15). What a NEXT and a SEED of each kind do
is said here once, a stream of pulls is the iteration of one engine's advance, and so two engines constructed with the
same seed return the same stream (R79, R91, O22). -/

namespace Sys2Proof.Machine

/-! ### Progress (R78, R140) -/

/-- A completion runs a command or raises an error; both are answers. -/
theorem completeCommand_isNext (s : State) : ∃ t, completeCommand s = .next t := by
  rcases completeCommand_cases s with ⟨i, _, h⟩ | ⟨_, _, h⟩
  · obtain ⟨t, ht⟩ := exec_isNext i s
    exact ⟨t, h.trans ht⟩
  · exact ⟨_, h⟩

theorem step_isNext (s : State) : ∃ t, step s = .next t := by
  rcases step_cases s with ⟨_, _, h⟩ | ⟨_, _, h⟩ | ⟨_, _, _, _, _, _, h⟩ | ⟨_, _, _, h⟩ | ⟨_, _, h⟩
  case inr.inl =>
    obtain ⟨t, ht⟩ := completeCommand_isNext s
    exact ⟨t, h.trans ht⟩
  all_goals exact ⟨_, h⟩

/-! ### What a NEXT of each kind does (R75, R87, R95, R108) -/

/-- The engines after a pull of one kind. -/
def nextAdvance : Kind → Engines → Engines
  | .mt, g => { g with mt := mtAdvance mtPairSplit g.mt }
  | .xs, g => { g with xs := { st := xsStep g.xs.st, con := g.xs.con } }
  | .pcg, g => { g with pcg := { st := pcgLcg g.pcg.st, con := g.pcg.con } }
  | .bbs, g => { g with bbs := { st := bbsSquare g.bbs.st.val, con := g.bbs.con } }

/-- The value that a pull of one kind returns. -/
def nextOut : Kind → Engines → Word
  | .mt, g => mtOutput mtPairSplit g.mt
  | .xs, g => xsStep g.xs.st
  | .pcg, g => pcgPermute pcgXshTrunc (pcgLcg g.pcg.st)
  | .bbs, g => BitVec.ofNat 32 (bbsSquare g.bbs.st.val).val

/-- `exec` on a NEXT, for all kinds at once. -/
theorem exec_of_next {i : Instr} (hop : i.op = .next) (s : State) :
    exec i s = pull i.inst (fun g => g.con i.kind) (nextAdvance i.kind) (nextOut i.kind) s := by
  cases i with
  | mtNext a | xsNext a | pcgNext a | bbsNext a => rfl
  | mtSeed a | xsSeed a | xsSeedd a | pcgSeed a | pcgSeedd a | bbsSeed a | bbsSeedd a => nomatch hop

/-- R26: a pull keeps the flag. -/
@[simp] theorem con_nextAdvance (k : Kind) (g : Engines) : (nextAdvance k g).con k = g.con k := by
  cases k <;> rfl

theorem readsOnly_nextAdvance (k : Kind) : ReadsOnly k fun g => Spec.engine (nextAdvance k g) k := by
  cases k with
  | mt => exact readsOnly_mt fun e => Spec.EngineState.mt (mtAdvance mtPairSplit e)
  | xs => exact readsOnly_xs fun e => Spec.EngineState.xs ⟨xsStep e.st, e.con⟩
  | pcg => exact readsOnly_pcg fun e => Spec.EngineState.pcg ⟨pcgLcg e.st, e.con⟩
  | bbs => exact readsOnly_bbs fun e => Spec.EngineState.bbs ⟨bbsSquare e.st.val, e.con⟩

theorem readsOnly_nextOut (k : Kind) : ReadsOnly k (nextOut k) := by
  cases k with
  | mt => exact readsOnly_mt fun e => mtOutput mtPairSplit e
  | xs => exact readsOnly_xs fun e => xsStep e.st
  | pcg => exact readsOnly_pcg fun e => pcgPermute pcgXshTrunc (pcgLcg e.st)
  | bbs => exact readsOnly_bbs fun e => BitVec.ofNat 32 (bbsSquare e.st.val).val

/-- After any number of pulls the engine is still a function of that engine alone. -/
theorem readsOnly_iterate_nextAdvance (k : Kind) (m : Nat) :
    ReadsOnly k fun g => Spec.engine ((nextAdvance k)^[m] g) k := by
  induction m with
  | zero => exact fun _ _ h => h
  | succ m ih => exact fun g g' h => ih _ _ (readsOnly_nextAdvance k g g' h)

/-! ### Streams of pulls (R66) -/

theorem exec_next_of_constructed {i : Instr} {s : State} {g : Engines} (hop : i.op = .next)
    (hg : s.engines i.inst = some g) (hcon : g.con i.kind = true) :
    exec i s = .next (respond (nextOut i.kind g) (s.setEngines i.inst (nextAdvance i.kind g))) := by
  rw [exec_of_next hop]
  exact pull_of_constructed hg hcon

theorem pullStream_succ {i : Instr} {s t : State} (h : exec i s = .next t) (n : Nat) :
    pullStream (n + 1) i s = t.rspData :: pullStream n i t := by
  simp [pullStream, h]

/-- Pull number m of a constructed engine finds it advanced m times. -/
theorem pullStream_eq_map_range {i : Instr} {s : State} {g : Engines} (hop : i.op = .next)
    (hg : s.engines i.inst = some g) (hcon : g.con i.kind = true) (n : Nat) :
    pullStream n i s = (List.range n).map fun m => nextOut i.kind ((nextAdvance i.kind)^[m] g) := by
  induction n generalizing s g with
  | zero => rfl
  | succ n ih =>
    have hg' : State.engines (respond (nextOut i.kind g) (s.setEngines i.inst (nextAdvance i.kind g))) i.inst =
        some (nextAdvance i.kind g) := by
      simpa using engines_setEngines_self hg
    rw [pullStream_succ (exec_next_of_constructed hop hg hcon), ih hg' (by simpa using hcon), List.range_succ_eq_map,
      List.map_cons, List.map_map]
    rfl

/-- R36: two engines of one kind with the same contents return the same stream, wherever they stand. -/
theorem pullStream_congr {p q : Instr} {s t : State} {g g' : Engines} (hp : p.op = .next) (hq : q.op = .next)
    (hkind : q.kind = p.kind) (hg : s.engines p.inst = some g) (hg' : t.engines q.inst = some g')
    (heng : Spec.engine g p.kind = Spec.engine g' p.kind) (hcon : g.con p.kind = true) (n : Nat) :
    pullStream n p s = pullStream n q t := by
  have hcon' : g'.con q.kind = true := hkind ▸ (readsOnly_con p.kind g g' heng).symm.trans hcon
  rw [pullStream_eq_map_range hp hg hcon, pullStream_eq_map_range hq hg' hcon', hkind]
  exact List.map_congr_left fun m _ =>
    readsOnly_nextOut p.kind _ _ (readsOnly_iterate_nextAdvance p.kind m g g' heng)

/-! ### What a SEED of each kind constructs (R70, R85, R93, R104) -/

theorem exec_mtSeed (a : InstNum) (s : State) :
    exec (.mtSeed a) s = construct a (seed32 s.seedIn) (fun v g => { g with mt := mtConstructed v }) s := rfl
theorem exec_xsSeed (a : InstNum) (s : State) :
    exec (.xsSeed a) s = construct a (seed32 s.seedIn) (fun v g => { g with xs := xsConstructed v }) s := rfl
theorem exec_pcgSeed (a : InstNum) (s : State) :
    exec (.pcgSeed a) s = construct a (seed64 s.seedIn) (fun v g => { g with pcg := pcgConstructed v }) s := rfl
theorem exec_bbsSeed (a : InstNum) (s : State) :
    exec (.bbsSeed a) s = construct a (seed64 s.seedIn) (fun v g => { g with bbs := bbsConstructed v }) s := rfl

/-- The engine that a SEED of one kind constructs from SEED_IN, if the operand gives a seed (R58). -/
def seedEngine : Kind → DWord → Option Spec.EngineState
  | .mt, d => (seed32 d).map fun v => .mt (mtConstructed v)
  | .xs, d => (seed32 d).map fun v => .xs (xsConstructed v)
  | .pcg, d => (seed64 d).map fun v => .pcg (pcgConstructed v)
  | .bbs, d => (seed64 d).map fun v => .bbs (bbsConstructed v)

/-- A construct that answers OK leaves the engine that its seed gives. -/
theorem engineAt_of_construct_ok {α : Type} {k : Kind} {a : InstNum} {seed : Option α} {build : α → Engines → Engines}
    {made : α → Spec.EngineState} {s t : State} (h : construct a seed build s = .next t) (hok : t.rspStatus = okStatus)
    (hbuild : ∀ v g, Spec.engine (build v g) k = made v) :
    Spec.engineAt t k a = seed.map made := by
  rcases construct_cases a seed build s with ⟨_, hc⟩ | ⟨_, _, _, hc⟩ | ⟨g, v, hg, rfl, hc⟩
  · cases h.symm.trans hc
    exact absurd hok (raise_rspStatus_ne_ok _ s)
  · cases h.symm.trans hc
    exact absurd hok (raise_rspStatus_ne_ok _ s)
  · cases h.symm.trans hc
    simp [engineAt_setEngines_self hg, hbuild]

theorem engineAt_of_seed_ok {i : Instr} {s t : State} (hop : i.op = .seed) (h : exec i s = .next t)
    (hok : t.rspStatus = okStatus) : Spec.engineAt t i.kind i.inst = seedEngine i.kind s.seedIn := by
  cases i with
  | mtSeed a =>
    exact engineAt_of_construct_ok (made := fun v => .mt (mtConstructed v))
      ((exec_mtSeed a s).symm.trans h) hok fun _ _ => rfl
  | xsSeed a =>
    exact engineAt_of_construct_ok (made := fun v => .xs (xsConstructed v))
      ((exec_xsSeed a s).symm.trans h) hok fun _ _ => rfl
  | pcgSeed a =>
    exact engineAt_of_construct_ok (made := fun v => .pcg (pcgConstructed v))
      ((exec_pcgSeed a s).symm.trans h) hok fun _ _ => rfl
  | bbsSeed a =>
    exact engineAt_of_construct_ok (made := fun v => .bbs (bbsConstructed v))
      ((exec_bbsSeed a s).symm.trans h) hok fun _ _ => rfl
  | mtNext a | xsNext a | xsSeedd a | pcgNext a | pcgSeedd a | bbsNext a | bbsSeedd a => nomatch hop

/-- The engines behind a successful SEED: the named one is constructed, and is what SEED_IN gives. -/
theorem engines_of_seed_ok {i : Instr} {s t : State} (hop : i.op = .seed) (h : exec i s = .next t)
    (hok : t.rspStatus = okStatus) :
    ∃ g, t.engines i.inst = some g ∧ g.con i.kind = true ∧ seedEngine i.kind s.seedIn = some (Spec.engine g i.kind) := by
  have hcon := exec_con_of_ok h hok
  rw [State.con, Option.map_eq_some_iff] at hcon
  obtain ⟨g, hg, hgcon⟩ := hcon
  exact ⟨g, hg, hgcon, by rw [← engineAt_of_seed_ok hop h hok, engineAt_of_engines hg]⟩

/-! ### The obligations -/

/-- Settles O15, by the cases of a command and of a step. -/
theorem everyCommandAndEveryStepFinishes : Obligations.EveryCommandAndEveryStepFinishes := by
  unfold Obligations.EveryCommandAndEveryStepFinishes
  exact ⟨exec_isNext, step_isNext⟩

/-- Settles O22: the two SEEDs construct the same engine, and a stream is a function of its engine. -/
theorem sameSeedSameSequence : Obligations.SameSeedSameSequence := by
  unfold Obligations.SameSeedSameSequence
  intro i j p q s t s' t' hi hj hkind hp hpk hpi hq hqk hqj hseed hs ht hsok htok n
  obtain ⟨g, hg, hcon, hmade⟩ := engines_of_seed_ok hi hs hsok
  obtain ⟨g', hg', _, hmade'⟩ := engines_of_seed_ok hj ht htok
  rw [hkind, ← hseed] at hmade'
  have heng : Spec.engine g i.kind = Spec.engine g' i.kind := Option.some.inj (hmade.symm.trans hmade')
  rw [← hpi] at hg
  rw [← hqj] at hg'
  rw [← hpk] at heng hcon
  exact pullStream_congr hp hq (hqk.trans hpk.symm) hg hg' heng hcon n

end Sys2Proof.Machine

/-! The MT19937 engine (40_mt19937.md). The machine's helper functions are the rules' formulas read as natural numbers, one
lemma each (R70..R75), from which the completions of MT.SEED and MT.NEXT follow (O30, O31); what the two readings of the
pair take (O32); temper as a composition of injective shift-xor steps (O33); a seeded array is not zero (O34). -/

namespace Sys2Proof.Machine

/-! ### The pair (R72) -/

/-- Words split at bit n, the bits from n up taken from the one and those below n from the other. -/
theorem toNat_split_or {n : Nat} (hn : n ≤ 32) (cur nxt : Word) :
    ((cur &&& (BitVec.allOnes 32 <<< n)) ||| (nxt &&& BitVec.ofNat 32 (2 ^ n - 1))).toNat =
      cur.toNat / 2 ^ n * 2 ^ n + nxt.toNat % 2 ^ n := by
  have hlow : (nxt &&& BitVec.ofNat 32 (2 ^ n - 1)).toNat = nxt.toNat % 2 ^ n := by
    have hmask : 2 ^ n - 1 < 2 ^ 32 := by
      have := Nat.pow_le_pow_right (show 0 < 2 by decide) hn
      omega
    rw [BitVec.toNat_and, BitVec.toNat_ofNat, Nat.mod_eq_of_lt hmask, Nat.and_two_pow_sub_one_eq_mod]
  have hhigh : (cur &&& (BitVec.allOnes 32 <<< n)).toNat = (cur.toNat / 2 ^ n) <<< n := by
    have hle : cur.toNat / 2 ^ n * 2 ^ n < 2 ^ 32 := (Nat.div_mul_le_self _ _).trans_lt cur.isLt
    rw [← BitVec.shiftLeft_ushiftRight, BitVec.toNat_shiftLeft, BitVec.toNat_ushiftRight, Nat.shiftRight_eq_div_pow,
      Nat.shiftLeft_eq, Nat.mod_eq_of_lt hle]
  rw [BitVec.toNat_or, hhigh, hlow, ← Nat.shiftLeft_add_eq_or_of_lt (Nat.mod_lt _ (Nat.two_pow_pos n)), Nat.shiftLeft_eq]

/-- R72: the masks of the standard reading split at bit 31. -/
theorem mtPair_standard (cur nxt : Word) :
    mtPair .standard cur nxt = (cur &&& (BitVec.allOnes 32 <<< 31)) ||| (nxt &&& BitVec.ofNat 32 (2 ^ 31 - 1)) := rfl

/-- R72: the masks of the literal reading split at bit 1. -/
theorem mtPair_literal (cur nxt : Word) :
    mtPair .literal cur nxt = (cur &&& (BitVec.allOnes 32 <<< 1)) ||| (nxt &&& BitVec.ofNat 32 (2 ^ 1 - 1)) := rfl

/-! ### The machine's words as the rules' numbers (R70..R75) -/

theorem toNat_mtSeedStep (p : Word) (k : Nat) : (mtSeedStep p k).toNat = Spec.mtSeedStep p.toNat k := by
  simp [mtSeedStep, Spec.mtSeedStep, Spec.trunc, mtF]

theorem toNat_mtPair (cur nxt : Word) : (mtPair .standard cur nxt).toNat = Spec.mtPair cur.toNat nxt.toNat := by
  simp [mtPair, Spec.mtPair, mtUmask, mtLmask]

theorem toNat_mtTwistA (x : Word) : (mtTwistA x).toNat = Spec.mtTwistA x.toNat := by
  have hlow : x.getLsbD 0 = decide (x.toNat % 2 = 1) := by simp [BitVec.getLsbD, Nat.testBit_zero]
  simp only [mtTwistA, Spec.mtTwistA, hlow, decide_eq_true_eq]
  split
  · exact BitVec.toNat_xor ..
  · exact BitVec.toNat_ushiftRight x 1

/-- A mask of 32 bits makes it indifferent whether the left shift before it is truncated. -/
theorem toNat_shiftLeft_and (x m : Word) (n : Nat) : ((x <<< n) &&& m).toNat = (x.toNat <<< n) &&& m.toNat := by
  have hlt : (x.toNat <<< n) &&& m.toNat < 2 ^ 32 := Nat.and_le_right.trans_lt m.isLt
  rw [BitVec.toNat_and, BitVec.toNat_shiftLeft, ← Nat.mod_eq_of_lt hlt, Nat.and_mod_two_pow, Nat.mod_eq_of_lt m.isLt]

theorem toNat_mtTemper (x : Word) : (mtTemper x).toNat = Spec.mtTemper x.toNat := by
  have hspec : Spec.mtTemper x.toNat = (mtTemper x).toNat % 2 ^ 32 := by
    simp only [mtTemper, Spec.mtTemper, Spec.trunc, BitVec.toNat_xor, BitVec.toNat_ushiftRight, toNat_shiftLeft_and]
    rfl
  rw [hspec, Nat.mod_eq_of_lt (mtTemper x).isLt]

/-- R76: the indices k − 227 and k − 623 mod 624 are k + 397 and k + 1. -/
theorem toNat_mtNewWord (e : MtEngine) : (mtNewWord .standard e).toNat = Spec.mtNewWord e.st e.idx := by
  have hfar : (e.idx - 227).val = (e.idx.val + 397) % 624 := by
    change (624 - 227 + e.idx.val) % 624 = _
    omega
  have hnear : (e.idx - 623).val = (e.idx.val + 1) % 624 := by
    change (624 - 623 + e.idx.val) % 624 = _
    omega
  simp only [mtNewWord, Spec.mtNewWord, Fin.getElem_fin, hfar, hnear, BitVec.toNat_xor, toNat_mtTwistA, toNat_mtPair]

theorem mtNewWord_eq_ofNat (e : MtEngine) : mtNewWord .standard e = BitVec.ofNat 32 (Spec.mtNewWord e.st e.idx) := by
  rw [← toNat_mtNewWord, BitVec.ofNat_toNat, BitVec.setWidth_eq]

/-- R77: an output is the new word tempered. -/
theorem toNat_mtOutput (e : MtEngine) :
    (mtOutput .standard e).toNat = Spec.mtTemper (Spec.mtNewWord e.st e.idx) := by
  rw [mtOutput, toNat_mtTemper, toNat_mtNewWord]

/-! ### The seeded array (R70) -/

theorem mtSeedArray_zero (v : Word) : (mtSeedArray v)[0] = v := rfl

theorem mtSeedArray_succ (v : Word) {k : Nat} (h : k + 1 < Config.mtN) :
    (mtSeedArray v)[k + 1] = mtSeedStep (mtSeedArray v)[k] (k + 1) := by
  simpa [mtSeedArray] using mtSeedWords_getElem v 0 Config.mtN k (by rwa [mtSeedWords_length])

/-- R58: the whole of a 32-bit SEED_IN is the seed. -/
theorem seed32_of_lt {d : DWord} (h : d.toNat < 2 ^ 32) : seed32 d = some (BitVec.ofNat 32 d.toNat) := by
  refine (seed32_eq_some_iff d _).2 ⟨BitVec.eq_of_toNat_eq ?_, BitVec.eq_of_toNat_eq ?_⟩
  · rw [BitVec.extractLsb'_toNat, Nat.shiftRight_eq_div_pow, Nat.div_eq_of_lt h]
    rfl
  · rw [BitVec.extractLsb'_toNat, Nat.shiftRight_zero, BitVec.toNat_ofNat]

/-- R70: a 32-bit seed constructs the array. -/
theorem exec_mtSeed_of_lt {a : InstNum} {s : State} {g : Engines} (hg : s.engines a = some g)
    (hseed : s.seedIn.toNat < 2 ^ 32) :
    exec (.mtSeed a) s = .next (respond 0#32
      (s.setEngines a { g with mt := mtConstructed (BitVec.ofNat 32 s.seedIn.toNat) })) := by
  rw [exec_mtSeed, seed32_of_lt hseed]
  exact construct_some hg _

/-- Only an instance the part has holds engines after MT.SEED, and they are then those of its seed. -/
theorem mt_of_exec_mtSeed {a : InstNum} {s t : State} {g : Engines} (hseed : s.seedIn.toNat < 2 ^ 32)
    (h : exec (.mtSeed a) s = .next t) (hg : t.engines a = some g) :
    g.mt = mtConstructed (BitVec.ofNat 32 s.seedIn.toNat) := by
  cases hs : s.engines a with
  | none =>
    cases h.symm.trans (construct_of_missing hs)
    simp [hs] at hg
  | some g₀ =>
    cases h.symm.trans (exec_mtSeed_of_lt hs hseed)
    rw [respond_engines, engines_setEngines_self hs] at hg
    cases hg
    rfl

/-! ### A pull (R75) -/

/-- R75, on the machine's own engine functions. -/
theorem exec_mtNext_of_constructed {a : InstNum} {s : State} {g : Engines} (hg : s.engines a = some g)
    (hcon : g.mt.con = true) :
    exec (.mtNext a) s = .next (respond (mtOutput .standard g.mt)
      (s.setEngines a { g with mt := mtAdvance .standard g.mt })) :=
  exec_next_of_constructed (i := .mtNext a) rfl hg hcon

/-! ### Shift-xor steps (R74) -/

/-- A word xored with a linear function of it determines the word, if only 0 is its own image. -/
theorem injective_xor_of_linear {f : Word → Word} (hlinear : ∀ x y, f (x ^^^ y) = f x ^^^ f y)
    (hzero : ∀ d, d = f d → d = 0#32) : Function.Injective fun x => x ^^^ f x := fun x y h => by
  have hfix : x ^^^ y = f (x ^^^ y) := BitVec.xor_eq_zero_iff.1 <|
    calc x ^^^ y ^^^ f (x ^^^ y)
        = (x ^^^ f x) ^^^ (y ^^^ f y) := by rw [hlinear]; ac_rfl
      _ = 0#32 := BitVec.xor_eq_zero_iff.2 h
  exact BitVec.xor_eq_zero_iff.1 (hzero _ hfix)

/-- `x ^ (x >> n)`. -/
def xorShiftRight (n : Nat) (x : Word) : Word := x ^^^ (x >>> n)

/-- `x ^ ((x << n) & m)`. -/
def xorShiftLeftMasked (n : Nat) (m x : Word) : Word := x ^^^ ((x <<< n) &&& m)

theorem mtTemper_eq_comp : mtTemper =
    xorShiftRight 18 ∘ xorShiftLeftMasked 15 mtC ∘ xorShiftLeftMasked 7 mtB ∘ xorShiftRight 11 := rfl

theorem xorShiftRight_injective {n : Nat} (hn : 0 < n) : Function.Injective (xorShiftRight n) := by
  refine injective_xor_of_linear (fun x y => BitVec.ushiftRight_xor_distrib x y n) fun d hd => ?_
  have hdiv : d.toNat / 2 ^ n = d.toNat := by
    rw [← Nat.shiftRight_eq_div_pow, ← BitVec.toNat_ushiftRight, ← hd]
  have hpow : 2 ^ n ≠ 1 := (Nat.one_lt_two_pow hn.ne').ne'
  exact BitVec.eq_of_toNat_eq ((Nat.div_eq_self.1 hdiv).resolve_right hpow)

/-- A word that is its own shifted and masked copy has no lowest bit. -/
theorem eq_zero_of_eq_shiftLeft_and {n : Nat} (hn : 0 < n) {m d : Word} (hd : d = (d <<< n) &&& m) : d = 0#32 := by
  refine BitVec.eq_of_getLsbD_eq fun i _ => ?_
  rw [BitVec.getLsbD_zero]
  induction i using Nat.strong_induction_on with
  | _ i ih =>
    rw [hd, BitVec.getLsbD_and, BitVec.getLsbD_shiftLeft]
    by_cases hi : i < n
    · simp [hi]
    · simp [ih (i - n) (by omega) (by omega)]

theorem xor_and_distrib_right (x y m : Word) : (x ^^^ y) &&& m = (x &&& m) ^^^ (y &&& m) := by
  ext i hi
  simp [Bool.and_xor_distrib_right]

theorem xorShiftLeftMasked_injective {n : Nat} (hn : 0 < n) (m : Word) :
    Function.Injective (xorShiftLeftMasked n m) := by
  refine injective_xor_of_linear (fun x y => ?_) fun _ => eq_zero_of_eq_shiftLeft_and hn
  rw [BitVec.shiftLeft_xor_distrib, xor_and_distrib_right]

theorem mtTemper_injective : Function.Injective mtTemper := by
  rw [mtTemper_eq_comp]
  exact (xorShiftRight_injective (by decide)).comp <| (xorShiftLeftMasked_injective (by decide) mtC).comp <|
    (xorShiftLeftMasked_injective (by decide) mtB).comp (xorShiftRight_injective (by decide))

/-! ### The obligations -/

/-- Settles O30: the engine is `mtConstructed` of SEED_IN. -/
theorem mtSeedConstructsTheArray : Obligations.MtSeedConstructsTheArray := by
  unfold Obligations.MtSeedConstructsTheArray
  intro inst s g hg hseed
  refine ⟨mtConstructed (BitVec.ofNat 32 s.seedIn.toNat), exec_mtSeed_of_lt hg hseed, rfl, rfl, ?_, fun k hk => ?_⟩
  · simp only [mtConstructed, mtSeedArray_zero, BitVec.toNat_ofNat, Nat.mod_eq_of_lt hseed]
  · simp only [mtConstructed, mtSeedArray_succ _ (Nat.succ_lt_succ hk), toNat_mtSeedStep]

/-- Settles O31: the machine's pull, with its new word and its output in the rules' form. -/
theorem mtNextTwistsAndTempersOneWord : Obligations.MtNextTwistsAndTempersOneWord := by
  unfold Obligations.MtNextTwistsAndTempersOneWord
  intro inst s g hg hcon
  have hdata : mtOutput .standard g.mt = BitVec.ofNat 32 (Spec.mtTemper (Spec.mtNewWord g.mt.st g.mt.idx)) := by
    rw [← toNat_mtOutput, BitVec.ofNat_toNat, BitVec.setWidth_eq]
  have hidx : g.mt.idx + 1 = ⟨(g.mt.idx.val + 1) % 624, Nat.mod_lt _ (by decide)⟩ := rfl
  rw [exec_mtNext_of_constructed hg hcon, hdata, mtAdvance, mtNewWord_eq_ofNat, hcon, hidx]
  rfl

/-- Settles O32: the masks of the two readings split the words at bit 31 and at bit 1. -/
theorem pairSplitsTheWordsAsTheReadingSays : Obligations.PairSplitsTheWordsAsTheReadingSays := by
  unfold Obligations.PairSplitsTheWordsAsTheReadingSays
  intro cur nxt
  rw [mtPair_standard, mtPair_literal]
  exact ⟨toNat_split_or (n := 31) (by decide) cur nxt, toNat_split_or (n := 1) (by decide) cur nxt⟩

/-- Settles O33: an injective map of the finitely many words is a bijection. -/
theorem temperIsABijection : Obligations.TemperIsABijection := by
  unfold Obligations.TemperIsABijection
  exact ⟨Finite.injective_iff_bijective.1 mtTemper_injective, fun x => mtTemper_injective.eq_iff' (by decide)⟩

/-- Settles O34: for seed 0 word 1 is 1, and for every other seed word 0 is the seed. -/
theorem seededArrayIsNeverAllZero : Obligations.SeededArrayIsNeverAllZero := by
  unfold Obligations.SeededArrayIsNeverAllZero
  intro inst s t g hseed h hg
  rw [mt_of_exec_mtSeed hseed h hg]
  have hone : s.seedIn = 0#64 → (mtConstructed (BitVec.ofNat 32 s.seedIn.toNat)).st[1] = 1#32 := fun h0 => by
    rw [h0]
    exact (mtSeedArray_succ _ (k := 0) (by decide)).trans (by rw [mtSeedArray_zero]; decide)
  have hseeded : s.seedIn ≠ 0#64 → (mtConstructed (BitVec.ofNat 32 s.seedIn.toNat)).st[0] ≠ 0#32 := by
    intro hne hzero
    rw [mtConstructed, mtSeedArray_zero, BitVec.toNat_eq, BitVec.toNat_ofNat, Nat.mod_eq_of_lt hseed] at hzero
    exact hne (BitVec.eq_of_toNat_eq hzero)
  refine ⟨hone, hseeded, ?_⟩
  by_cases h0 : s.seedIn = 0#64
  · exact ⟨1, fun hzero => absurd ((hone h0).symm.trans hzero) (by decide)⟩
  · exact ⟨0, hseeded h0⟩

end Sys2Proof.Machine

/-! The on-demand MT stream is the batch stream (R77, O35). Both forms do the same twists in the same order: the batch
form does 624 of them before it returns a word, the on-demand form returns each word when its twist is done. The batch
array is cut into the arrays after the first j twists, which are those of the on-demand engine. -/

namespace Sys2Proof.Machine

/-! ### One batch, twist by twist -/

/-- The twist of one word, as the batch form does it. -/
def twistWord (st : Vector Word 624) (k : Fin 624) : Vector Word 624 :=
  st.set k.val (BitVec.ofNat 32 (Spec.mtNewWord st k))

/-- The array after the first j twists of a batch. -/
def twistedTo (j : Nat) (st : Vector Word 624) : Vector Word 624 := ((List.finRange 624).take j).foldl twistWord st

theorem twistedTo_all (st : Vector Word 624) : twistedTo 624 st = Spec.mtBatchTwist st := by
  rw [twistedTo, List.take_of_length_le (List.length_finRange).le]
  rfl

theorem twistedTo_succ (st : Vector Word 624) {j : Nat} (hj : j < 624) :
    twistedTo (j + 1) st = twistWord (twistedTo j st) ⟨j, hj⟩ := by
  have hlen : j < (List.finRange 624).length := by rwa [List.length_finRange]
  rw [twistedTo, List.take_succ_eq_append_getElem hlen, List.foldl_concat, List.getElem_finRange]
  rfl

/-- Word r has its final value once twist r is done. -/
theorem getElem_twistedTo (st : Vector Word 624) {r j : Nat} (hr : r < 624) (hrj : r < j) (hj : j ≤ 624) :
    (twistedTo j st)[r] = BitVec.ofNat 32 (Spec.mtNewWord (twistedTo r st) ⟨r, hr⟩) := by
  induction j, hrj using Nat.le_induction with
  | base =>
    rw [twistedTo_succ st hr]
    exact Vector.getElem_set_self _
  | succ j hrj ih =>
    rw [← ih (by omega), twistedTo_succ st hj]
    exact Vector.getElem_set_ne _ _ (Nat.ne_of_gt hrj)

/-! ### The on-demand engine along a batch -/

theorem mtAdvance_eq_twistWord (e : MtEngine) :
    mtAdvance .standard e = { st := twistWord e.st e.idx, idx := e.idx + 1, con := e.con } := by
  rw [mtAdvance, mtNewWord_eq_ofNat, twistWord]

/-- After j pulls from index 0 the engine stands j twists into the batch. -/
theorem iterate_mtAdvance_eq_twistedTo (st : Vector Word 624) (con : Bool) {j : Nat} (hj : j ≤ 624) :
    (mtAdvance .standard)^[j] { st := st, idx := 0, con := con } =
      { st := twistedTo j st, idx := Fin.ofNat 624 j, con := con } := by
  induction j with
  | zero => rfl
  | succ j ih =>
    have hlt : Fin.ofNat 624 j = ⟨j, hj⟩ := Fin.ext (Nat.mod_eq_of_lt hj)
    have hidx : (⟨j, hj⟩ : Fin 624) + 1 = Fin.ofNat 624 (j + 1) := rfl
    rw [Function.iterate_succ_apply', ih (by omega), mtAdvance_eq_twistWord]
    simp only [hlt, hidx, twistedTo_succ st hj]

/-- 624 pulls from index 0 are one batch, and the index is 0 again. -/
theorem iterate_mtAdvance_batch (st : Vector Word 624) (con : Bool) :
    (mtAdvance .standard)^[624] { st := st, idx := 0, con := con } =
      { st := Spec.mtBatchTwist st, idx := 0, con := con } := by
  rw [iterate_mtAdvance_eq_twistedTo st con le_rfl, twistedTo_all]
  rfl

theorem iterate_mtAdvance_batches (st : Vector Word 624) (con : Bool) (q : Nat) :
    (mtAdvance .standard)^[624 * q] { st := st, idx := 0, con := con } =
      { st := Spec.mtBatchTwist^[q] st, idx := 0, con := con } := by
  rw [Function.iterate_mul]
  induction q with
  | zero => rfl
  | succ q ih => rw [Function.iterate_succ_apply', ih, iterate_mtAdvance_batch, Function.iterate_succ_apply']

/-- Within a batch, pull number r returns word r of the batch array, tempered. -/
theorem toNat_mtOutput_in_batch (st : Vector Word 624) (con : Bool) {r : Nat} (hr : r < 624) :
    (mtOutput .standard ((mtAdvance .standard)^[r] { st := st, idx := 0, con := con })).toNat =
      Spec.mtTemper (Spec.mtBatchTwist st)[r].toNat := by
  have hidx : Fin.ofNat 624 r = ⟨r, hr⟩ := Fin.ext (Nat.mod_eq_of_lt hr)
  have hword : (Spec.mtBatchTwist st)[r] = BitVec.ofNat 32 (Spec.mtNewWord (twistedTo r st) ⟨r, hr⟩) := by
    rw [← getElem_twistedTo st hr hr le_rfl, twistedTo_all st]
  rw [iterate_mtAdvance_eq_twistedTo st con hr.le, hidx, mtOutput, toNat_mtTemper, mtNewWord_eq_ofNat, hword]

/-- R77: pull number t, from 0, is that of the batch form. -/
theorem toNat_mtOutput_eq_batchOutput (st : Vector Word 624) (con : Bool) (t : Nat) :
    (mtOutput .standard ((mtAdvance .standard)^[t] { st := st, idx := 0, con := con })).toNat =
      Spec.mtBatchOutput st t := by
  have hsplit : t % 624 + 624 * (t / 624) = t := Nat.mod_add_div t 624
  have hrun : (mtAdvance .standard)^[t] { st := st, idx := 0, con := con } =
      (mtAdvance .standard)^[t % 624] { st := Spec.mtBatchTwist^[t / 624] st, idx := 0, con := con } := by
    rw [← iterate_mtAdvance_batches, ← Function.iterate_add_apply, hsplit]
  rw [hrun, toNat_mtOutput_in_batch _ _ (Nat.mod_lt t (by decide)), Spec.mtBatchOutput, Function.iterate_succ_apply']

/-! ### The stream of an instance -/

/-- Pulls of the kind MT advance the MT engine and no other. -/
theorem mt_iterate_nextAdvance (g : Engines) (m : Nat) :
    ((nextAdvance .mt)^[m] g).mt = (mtAdvance .standard)^[m] g.mt := by
  induction m generalizing g with
  | zero => rfl
  | succ m ih => exact ih (nextAdvance .mt g)

/-- Settles O35, pull by pull: pull t is word t mod 624 of batch t / 624. -/
theorem onDemandStreamIsTheBatchStream : Obligations.OnDemandStreamIsTheBatchStream := by
  unfold Obligations.OnDemandStreamIsTheBatchStream
  intro inst s g hg hcon hidx n
  have heng : g.mt = { st := g.mt.st, idx := 0, con := g.mt.con } := by rw [← hidx]
  rw [pullStream_eq_map_range (i := .mtNext inst) rfl hg hcon, List.map_map]
  refine List.map_congr_left fun t _ => ?_
  calc (mtOutput .standard ((nextAdvance .mt)^[t] g).mt).toNat
      = (mtOutput .standard ((mtAdvance .standard)^[t] { st := g.mt.st, idx := 0, con := g.mt.con })).toNat := by
        rw [mt_iterate_nextAdvance, ← heng]
    _ = Spec.mtBatchOutput g.mt.st t := toNat_mtOutput_eq_batchOutput g.mt.st g.mt.con t

end Sys2Proof.Machine

/-! The Xorshift32 engine (41_xorshift32.md). The machine's three steps are the rule's formula read as a number (R87), from
which the completion of XS.NEXT follows (O38), beside those of XS.SEED and XS.SEEDD (O36, O37). A stream of pulls iterates
the steps; each of the three is an injective shift-xor step and fixes 0, and so a stream of zeros comes from state 0 and
from no other (R89, R90, O39, O40). -/

namespace Sys2Proof.Machine

/-! ### The three steps (R87, R88) -/

theorem toNat_xsStep (x : Word) : (xsStep x).toNat = Spec.xsStep x.toNat := by
  simp only [xsStep, Spec.xsStep, Spec.trunc, BitVec.toNat_xor, BitVec.toNat_ushiftRight, BitVec.toNat_shiftLeft]

theorem xsStep_eq_ofNat (x : Word) : xsStep x = BitVec.ofNat 32 (Spec.xsStep x.toNat) := by
  rw [← toNat_xsStep, BitVec.ofNat_toNat, BitVec.setWidth_eq]

/-- Under the full mask a masked shift-xor step is a plain one. -/
theorem xorShiftLeftMasked_allOnes (n : Nat) (x : Word) : xorShiftLeftMasked n (BitVec.allOnes 32) x = x ^^^ (x <<< n) := by
  rw [xorShiftLeftMasked, BitVec.and_allOnes]

theorem xsStep_eq_comp : xsStep =
    xorShiftLeftMasked 5 (BitVec.allOnes 32) ∘ xorShiftRight 17 ∘ xorShiftLeftMasked 13 (BitVec.allOnes 32) := by
  funext x
  simp only [Function.comp_apply, xorShiftLeftMasked_allOnes]
  rfl

theorem xsStep_injective : Function.Injective xsStep := by
  rw [xsStep_eq_comp]
  exact (xorShiftLeftMasked_injective (by decide) _).comp <|
    (xorShiftRight_injective (by decide)).comp (xorShiftLeftMasked_injective (by decide) _)

/-- R89: 0 is a fixed point of the steps. -/
theorem xsStep_zero : xsStep 0#32 = 0#32 := by decide

/-- R89, R90: after any number of steps the word is 0 exactly when it was 0 before them. -/
theorem iterate_xsStep_eq_zero_iff (m : Nat) (x : Word) : xsStep^[m] x = 0#32 ↔ x = 0#32 :=
  (xsStep_injective.iterate m).eq_iff' (Function.iterate_fixed xsStep_zero m)

/-! ### The commands (R85, R86, R87) -/

/-- R87, on the machine's own steps. -/
theorem exec_xsNext_of_constructed {a : InstNum} {s : State} {g : Engines} (hg : s.engines a = some g)
    (hcon : g.xs.con = true) :
    exec (.xsNext a) s = .next (respond (xsStep g.xs.st)
      (s.setEngines a { g with xs := { st := xsStep g.xs.st, con := g.xs.con } })) :=
  exec_next_of_constructed (i := .xsNext a) rfl hg hcon

theorem exec_xsSeedd (a : InstNum) (s : State) :
    exec (.xsSeedd a) s = construct a (draw32 s.entropyIn) (fun v g => { g with xs := xsConstructed v }) s := rfl

/-- R59: the low half of the draw, read as a number. -/
theorem draw32_eq_ofNat (d : DWord) : draw32 d = some (BitVec.ofNat 32 (d.toNat % 2 ^ 32)) := by
  refine congrArg some (BitVec.eq_of_toNat_eq ?_)
  rw [BitVec.extractLsb'_toNat, Nat.shiftRight_zero, BitVec.toNat_ofNat, Nat.mod_mod]

/-! ### The stream of an instance (R66) -/

/-- Pulls of the kind XS apply the steps to the XS state. -/
theorem xs_st_iterate_nextAdvance (g : Engines) (m : Nat) : ((nextAdvance .xs)^[m] g).xs.st = xsStep^[m] g.xs.st := by
  induction m generalizing g with
  | zero => rfl
  | succ m ih => exact ih (nextAdvance .xs g)

/-- Pull number m, from 0, returns the state after m + 1 applications of the steps. -/
theorem pullStream_xsNext {a : InstNum} {s : State} {g : Engines} (hg : s.engines a = some g) (hcon : g.xs.con = true)
    (n : Nat) : pullStream n (.xsNext a) s = (List.range n).map fun m => xsStep^[m + 1] g.xs.st := by
  rw [pullStream_eq_map_range (i := .xsNext a) rfl hg hcon]
  refine List.map_congr_left fun m _ => ?_
  calc xsStep ((nextAdvance .xs)^[m] g).xs.st
      = xsStep (xsStep^[m] g.xs.st) := by rw [xs_st_iterate_nextAdvance]
    _ = xsStep^[m + 1] g.xs.st := (Function.iterate_succ_apply' xsStep m g.xs.st).symm

/-- R89, R90: a pull returns 0 exactly when the stream began in state 0. -/
theorem eq_zero_iff_of_mem_pullStream_xsNext {a : InstNum} {s : State} {g : Engines} (hg : s.engines a = some g)
    (hcon : g.xs.con = true) {n : Nat} {v : Word} (hv : v ∈ pullStream n (.xsNext a) s) :
    v = 0#32 ↔ g.xs.st = 0#32 := by
  rw [pullStream_xsNext hg hcon, List.mem_map] at hv
  obtain ⟨m, _, rfl⟩ := hv
  exact iterate_xsStep_eq_zero_iff (m + 1) g.xs.st

theorem length_pullStream_xsNext {a : InstNum} {s : State} {g : Engines} (hg : s.engines a = some g)
    (hcon : g.xs.con = true) (n : Nat) : (pullStream n (.xsNext a) s).length = n := by
  rw [pullStream_xsNext hg hcon, List.length_map, List.length_range]

/-! ### The obligations -/

/-- Settles O38: the machine's pull, with its steps in the rule's form. -/
theorem xsNextShiftsAndXors : Obligations.XsNextShiftsAndXors := by
  unfold Obligations.XsNextShiftsAndXors
  intro inst s g hg hcon
  rw [exec_xsNext_of_constructed hg hcon, hcon, xsStep_eq_ofNat]
  rfl

/-- Settles O39: the steps fix 0, so every pull returns 0 and leaves it. -/
theorem xsZeroIsAFixedPoint : Obligations.XsZeroIsAFixedPoint := by
  unfold Obligations.XsZeroIsAFixedPoint
  intro inst s g hg hcon hst
  have hstays : xsStep g.xs.st = 0#32 := by rw [hst, xsStep_zero]
  have hzero (n : Nat) : ∀ v ∈ pullStream n (.xsNext inst) s, v = 0#32 := fun v hv =>
    (eq_zero_iff_of_mem_pullStream_xsNext hg hcon hv).2 hst
  refine ⟨fun n => List.eq_replicate_iff.2 ⟨length_pullStream_xsNext hg hcon n, hzero n⟩, ?_⟩
  exact ⟨_, _, exec_xsNext_of_constructed hg hcon, (respond_engines ..).trans (engines_setEngines_self hg), hstays⟩

/-- Settles O40: the steps are injective and fix 0, so they give 0 from 0 alone. -/
theorem xsNonzeroStateNeverReturnsZero : Obligations.XsNonzeroStateNeverReturnsZero := by
  unfold Obligations.XsNonzeroStateNeverReturnsZero
  refine ⟨fun x => (iterate_xsStep_eq_zero_iff 1 x).not.2, fun inst s g hg hcon hst n => ?_⟩
  exact ⟨length_pullStream_xsNext hg hcon n, fun v hv => (eq_zero_iff_of_mem_pullStream_xsNext hg hcon hv).not.2 hst⟩

/-- Settles O36: a 32-bit SEED_IN is the seed. -/
theorem xsSeedStoresTheSeed : Obligations.XsSeedStoresTheSeed := by
  unfold Obligations.XsSeedStoresTheSeed
  intro inst s g hg hseed
  rw [exec_xsSeed, seed32_of_lt hseed]
  exact construct_some hg _

/-- Settles O37: the low half of every draw is a seed. -/
theorem xsSeeddStoresTheLowDraw : Obligations.XsSeeddStoresTheLowDraw := by
  unfold Obligations.XsSeeddStoresTheLowDraw
  intro inst s g hg
  rw [exec_xsSeedd, draw32_eq_ofNat]
  exact construct_some hg _

end Sys2Proof.Machine

/-! The PCG32 engine (42_pcg32.md). The machine's advance, xorshift and rotation are the rules' formulas read as
numbers, one lemma each (R96..R99), from which the completion of PCG.NEXT follows (O43), beside those of PCG.SEED and
PCG.SEEDD (O41, O42). The advance is a multiplication by a unit and a translation, so a bijection (R102, O44). The
rotation formula on a 32-bit value is the right rotation (R99, O45), and at rotation 0 it keeps the low word, which both
readings of PCG_XSH_TRUNC share (R103, O46). -/

namespace Sys2Proof.Machine

/-! ### The state advance (R96, R102) -/

theorem toNat_pcgLcg (x : DWord) : (pcgLcg x).toNat = Spec.pcgLcg x.toNat := by
  rw [pcgLcg, BitVec.add_comm, BitVec.mul_comm, BitVec.toNat_add, BitVec.toNat_mul, Nat.mod_add_mod]
  rfl

theorem pcgLcg_eq_ofNat (x : DWord) : pcgLcg x = BitVec.ofNat 64 (Spec.pcgLcg x.toNat) := by
  rw [← toNat_pcgLcg, BitVec.ofNat_toNat, BitVec.setWidth_eq]

/-- The multiplier is odd, so it has an inverse mod 2^64. -/
theorem isUnit_pcgMult : IsUnit pcgMult :=
  IsUnit.of_mul_eq_one 13877824140714322085#64 (by decide)

theorem pcgLcg_bijective : Function.Bijective pcgLcg :=
  (AddGroup.addLeft_bijective pcgInc).comp (IsUnit.isUnit_iff_mulLeft_bijective.1 isUnit_pcgMult)

/-! ### The xorshift and its two readings (R97, R98) -/

theorem toNat_pcgXsh (x : DWord) : (pcgXsh true x).toNat = Spec.pcgXsh x.toNat := by
  have hlt (n : Nat) : n % 2 ^ 32 < 2 ^ 64 := (Nat.mod_lt n (by decide)).trans (by decide)
  simp only [pcgXsh, Spec.pcgXsh, Spec.trunc, if_true, BitVec.toNat_setWidth, BitVec.toNat_ushiftRight,
    BitVec.toNat_xor, Nat.mod_eq_of_lt (hlt _)]

/-- R97: the readings of PCG_XSH_TRUNC differ above bit 31 only. -/
theorem setWidth_pcgXsh (trunc : Bool) (x : DWord) :
    (pcgXsh trunc x).setWidth 32 = (((x >>> 18) ^^^ x) >>> 27).setWidth 32 := by
  cases trunc with
  | false => rfl
  | true => simp [pcgXsh]

theorem toNat_pcgRot (x : DWord) : (pcgRot x).toNat = x.toNat >>> 59 := by
  have hlt : x.toNat >>> 59 < 2 ^ 5 := by
    rw [Nat.shiftRight_eq_div_pow]
    exact Nat.div_lt_of_lt_mul x.isLt
  rw [pcgRot, BitVec.extractLsb'_toNat, Nat.mod_eq_of_lt hlt]

/-! ### The rotation (R18, R99) -/

/-- R18: the left shift amount `(−r) & 31`. -/
theorem toNat_neg_rot (r : BitVec 5) : (-r).toNat = (32 - r.toNat) % 32 := BitVec.toNat_neg r

/-- R99. The bits that the machine's 64-bit left shift drops are above bit 31, whatever the size of x. -/
theorem toNat_rotr32 (x : DWord) (r : BitVec 5) : (rotr32 x r).toNat = Spec.rotr32 x.toNat r.toNat := by
  rw [rotr32, BitVec.toNat_setWidth, BitVec.toNat_or, BitVec.toNat_ushiftRight, BitVec.toNat_shiftLeft, toNat_neg_rot,
    Spec.rotr32, Spec.trunc, Nat.or_mod_two_pow, Nat.or_mod_two_pow, Nat.mod_mod_of_dvd]
  exact Nat.pow_dvd_pow 2 (by decide)

/-- R99: at rotation 0 both shifts are by 0. -/
theorem rotr32_zero (x : DWord) : rotr32 x 0#5 = x.setWidth 32 := by
  rw [rotr32, BitVec.neg_zero]
  simp

/-- R99: for r from 1 to 31 the shifts are by r and by 32 − r, which are those of the right rotation; for r = 0 the right
rotation shifts left by 32, where the formula shifts by 0, and both give the word itself. -/
theorem rotr32_setWidth (x : Word) (r : BitVec 5) : rotr32 (x.setWidth 64) r = x.rotateRight r.toNat := by
  have hlow : (x.setWidth 64).setWidth 32 = x := by
    rw [BitVec.setWidth_setWidth_of_le _ (by decide), BitVec.setWidth_eq]
  rw [BitVec.rotateRight_def, Nat.mod_eq_of_lt r.isLt]
  by_cases hr : r = 0#5
  · subst hr
    have hout : x <<< (32 - (0#5).toNat) = 0#32 := BitVec.shiftLeft_eq_zero (by decide)
    rw [rotr32_zero, hlow, hout, BitVec.or_zero]
    rfl
  · have hpos : r.toNat ≠ 0 := fun h => hr (BitVec.eq_of_toNat_eq h)
    have hneg : (-r).toNat = 32 - r.toNat := by rw [toNat_neg_rot]; omega
    rw [rotr32, hneg, BitVec.setWidth_or, BitVec.setWidth_shiftLeft_of_le (by decide), hlow,
      ← BitVec.setWidth_ushiftRight (by decide), BitVec.setWidth_setWidth_of_le _ (by decide), BitVec.setWidth_eq]

/-! ### The output (R95) -/

/-- R95: the permutation with PCG_XSH_TRUNC = true, read as a number. -/
theorem toNat_pcgPermute (x : DWord) :
    (pcgPermute true x).toNat = Spec.rotr32 (Spec.pcgXsh x.toNat) (x.toNat >>> 59) := by
  rw [pcgPermute, toNat_rotr32, toNat_pcgXsh, toNat_pcgRot]

/-- R103: at rotation 0 the output is the low word of the xorshift. -/
theorem pcgPermute_of_rot_zero {x : DWord} (h : pcgRot x = 0#5) (trunc : Bool) :
    pcgPermute trunc x = (((x >>> 18) ^^^ x) >>> 27).setWidth 32 := by
  rw [pcgPermute, h, rotr32_zero, setWidth_pcgXsh]

/-! ### The commands (R93, R94, R95) -/

/-- R95, on the machine's own engine functions. -/
theorem exec_pcgNext_of_constructed {a : InstNum} {s : State} {g : Engines} (hg : s.engines a = some g)
    (hcon : g.pcg.con = true) :
    exec (.pcgNext a) s = .next (respond (pcgPermute true (pcgLcg g.pcg.st))
      (s.setEngines a { g with pcg := { st := pcgLcg g.pcg.st, con := g.pcg.con } })) :=
  exec_next_of_constructed (i := .pcgNext a) rfl hg hcon

theorem exec_pcgSeedd (a : InstNum) (s : State) :
    exec (.pcgSeedd a) s = construct a (draw64 s.entropyIn) (fun v g => { g with pcg := pcgConstructed v }) s := rfl

/-! ### The obligations -/

/-- Settles O43: the machine's pull, with its new state and its output in the rules' form. -/
theorem pcgNextAdvancesThenPermutes : Obligations.PcgNextAdvancesThenPermutes := by
  unfold Obligations.PcgNextAdvancesThenPermutes
  intro inst s g hg hcon
  have hdata : pcgPermute true (pcgLcg g.pcg.st) =
      BitVec.ofNat 32 (Spec.rotr32 (Spec.pcgXsh (Spec.pcgLcg g.pcg.st.toNat)) (Spec.pcgLcg g.pcg.st.toNat >>> 59)) := by
    rw [← toNat_pcgLcg, ← toNat_pcgPermute, BitVec.ofNat_toNat, BitVec.setWidth_eq]
  rw [exec_pcgNext_of_constructed hg hcon, hdata, hcon, pcgLcg_eq_ofNat]
  rfl

/-- Settles O44: a unit multiplies bijectively, and so does the sum with a constant. -/
theorem pcgAdvanceIsABijection : Obligations.PcgAdvanceIsABijection := by
  unfold Obligations.PcgAdvanceIsABijection
  exact ⟨pcgLcg_bijective, by decide, by decide⟩

/-- Settles O45, part by part. -/
theorem rotationIsTheRightRotation : Obligations.RotationIsTheRightRotation := by
  unfold Obligations.RotationIsTheRightRotation
  exact ⟨toNat_neg_rot, fun x r _ => toNat_rotr32 x r, rotr32_zero, rotr32_setWidth⟩

/-- Settles O41: every SEED_IN is a seed. -/
theorem pcgSeedStoresTheSeed : Obligations.PcgSeedStoresTheSeed := by
  unfold Obligations.PcgSeedStoresTheSeed
  intro inst s g hg
  rw [exec_pcgSeed]
  exact construct_some hg _

/-- Settles O42: every draw is a seed. -/
theorem pcgSeeddStoresTheDraw : Obligations.PcgSeeddStoresTheDraw := by
  unfold Obligations.PcgSeeddStoresTheDraw
  intro inst s g hg
  rw [exec_pcgSeedd]
  exact construct_some hg _

/-- Settles O46: at rotation 0 both outputs are the low word of the xorshift; from state 42 they are computed. -/
theorem truncationReadingsAgreeAtRotationZero : Obligations.TruncationReadingsAgreeAtRotationZero := by
  unfold Obligations.TruncationReadingsAgreeAtRotationZero
  refine ⟨fun s h => ?_, by decide, by decide⟩
  rw [pcgPermute_of_rot_zero h, pcgPermute_of_rot_zero h]

end Sys2Proof.Machine

/-! The Blum Blum Shub engine (43_bbs.md). A stream of pulls iterates the square on the residues mod n, from which the
completions follow (O47, O48, O49) beside the reduction of the seed (O50). Each prime factor of n divides a square exactly
when it divides the root: so the fixed points are four (R110, O51) and a stream keeps the factors of its seed (R111, O52).
On the squares coprime to n, 2^m squarings are a power, which is the identity for every m that makes 2^m ≡ 1 mod the odd
order 22659 of that group: so the square permutes them and streams are cycles (R113, O53). -/

namespace Sys2Proof.Machine

open Function

/-! ### The square on the states (R106, R107, R109) -/

/-- `sq` on the residues, as BBS.NEXT applies it to its state (R107, R108). -/
def bbsStep (x : Fin Config.bbsN) : Fin Config.bbsN := bbsSquare x.val

/-- The word that returns a residue whole (R109). -/
def bbsWord (x : Fin Config.bbsN) : Word := BitVec.ofNat 32 x.val

theorem val_lt_272953 (x : Fin Config.bbsN) : x.val < 272953 := x.isLt

theorem bbsSquare_val (k : Nat) : (bbsSquare k).val = k * k % 272953 := rfl

/-- R106. -/
theorem bbsSquare_mod (k : Nat) : bbsSquare (k % 272953) = bbsSquare k :=
  Fin.ext (Nat.mul_mod k k 272953).symm

/-- R109: the 32-bit mask is a no-op. -/
@[simp] theorem toNat_bbsWord (x : Fin Config.bbsN) : (bbsWord x).toNat = x.val := by
  rw [bbsWord, BitVec.toNat_ofNat, Nat.mod_eq_of_lt (x.isLt.trans (by decide))]

theorem bbsWord_injective : Injective bbsWord := fun x y h => Fin.ext <| by
  simpa using congrArg BitVec.toNat h

theorem bbsWord_eq_zero_iff (x : Fin Config.bbsN) : bbsWord x = 0#32 ↔ x.val = 0 := by
  rw [← BitVec.toNat_inj, toNat_bbsWord, BitVec.toNat_ofNat, Nat.zero_mod]

theorem iterate_bbsStep_val (m : Nat) (x : Fin Config.bbsN) :
    (bbsStep^[m] x).val = x.val ^ 2 ^ m % 272953 := by
  induction m with
  | zero => simpa using (Nat.mod_eq_of_lt x.isLt).symm
  | succ m ih =>
    rw [iterate_succ_apply', bbsStep, bbsSquare_val, ih, ← Nat.mul_mod, ← pow_two, ← pow_mul, ← pow_succ]

/-! ### The commands (R104, R105, R108) -/

/-- R108, on the machine's own square. -/
theorem exec_bbsNext_of_constructed {a : InstNum} {s : State} {g : Engines} (hg : s.engines a = some g)
    (hcon : g.bbs.con = true) :
    exec (.bbsNext a) s = .next (respond (bbsWord (bbsStep g.bbs.st))
      (s.setEngines a { g with bbs := { st := bbsStep g.bbs.st, con := g.bbs.con } })) :=
  exec_next_of_constructed (i := .bbsNext a) rfl hg hcon

theorem exec_bbsSeedd (a : InstNum) (s : State) :
    exec (.bbsSeedd a) s = construct a (draw64 s.entropyIn) (fun v g => { g with bbs := bbsConstructed v }) s := rfl

/-- R104, R105: a SEED and a SEEDD construct alike, the one from SEED_IN and the other from ENTROPY_IN. -/
theorem exec_of_bbsConstructs {i : Instr} {a : InstNum} {s : State} {v : DWord} {g : Engines}
    (hi : Spec.bbsConstructs i a s v) (hg : s.engines a = some g) :
    exec i s = .next (respond 0#32 (s.setEngines a { g with bbs := bbsConstructed v })) := by
  rcases hi with ⟨rfl, rfl⟩ | ⟨rfl, rfl⟩
  · rw [exec_bbsSeed]
    exact construct_some hg _
  · rw [exec_bbsSeedd]
    exact construct_some hg _

/-- The engine behind a construct. -/
theorem engines_of_bbsConstructs {i : Instr} {a : InstNum} {s t : State} {v : DWord} (ha : a.toNat < s.ninst)
    (hi : Spec.bbsConstructs i a s v) (h : exec i s = .next t) :
    ∃ g, t.engines a = some g ∧ g.bbs.con = true ∧ g.bbs.st = bbsSquare v.toNat := by
  obtain ⟨g, hg⟩ := Option.isSome_iff_exists.1 ((engines_isSome_iff s a).2 ha)
  cases h.symm.trans (exec_of_bbsConstructs hi hg)
  exact ⟨_, (respond_engines ..).trans (engines_setEngines_self hg), rfl, rfl⟩

/-! ### The stream of an instance (R66) -/

/-- Pulls of the kind BBS square the BBS state. -/
theorem bbs_st_iterate_nextAdvance (g : Engines) (m : Nat) : ((nextAdvance .bbs)^[m] g).bbs.st = bbsStep^[m] g.bbs.st := by
  induction m generalizing g with
  | zero => rfl
  | succ m ih => exact ih (nextAdvance .bbs g)

section Stream

variable {a : InstNum} {s : State} {g : Engines}

/-- Pull number m, from 0, returns the state after m + 1 squarings. -/
theorem pullStream_bbsNext (hg : s.engines a = some g) (hcon : g.bbs.con = true) (n : Nat) :
    pullStream n (.bbsNext a) s = (List.range n).map fun m => bbsWord (bbsStep^[m + 1] g.bbs.st) := by
  rw [pullStream_eq_map_range (i := .bbsNext a) rfl hg hcon]
  refine List.map_congr_left fun m _ => ?_
  calc bbsWord (bbsStep ((nextAdvance .bbs)^[m] g).bbs.st)
      = bbsWord (bbsStep (bbsStep^[m] g.bbs.st)) := by rw [bbs_st_iterate_nextAdvance]
    _ = bbsWord (bbsStep^[m + 1] g.bbs.st) := by rw [iterate_succ_apply']

theorem length_pullStream_bbsNext (hg : s.engines a = some g) (hcon : g.bbs.con = true) (n : Nat) :
    (pullStream n (.bbsNext a) s).length = n := by
  rw [pullStream_bbsNext hg hcon, List.length_map, List.length_range]

/-- Every value of a stream is the state after some number of squarings. -/
theorem exists_iterate_of_mem_pullStream_bbsNext (hg : s.engines a = some g) (hcon : g.bbs.con = true) {n : Nat}
    {y : Word} (hy : y ∈ pullStream n (.bbsNext a) s) : ∃ m, bbsWord (bbsStep^[m] g.bbs.st) = y := by
  rw [pullStream_bbsNext hg hcon, List.mem_map] at hy
  obtain ⟨m, _, hm⟩ := hy
  exact ⟨m + 1, hm⟩

/-- R110: a state that is its own square is returned by every pull. -/
theorem pullStream_bbsNext_of_fixed (hg : s.engines a = some g) (hcon : g.bbs.con = true)
    (hfix : bbsStep g.bbs.st = g.bbs.st) (n : Nat) :
    pullStream n (.bbsNext a) s = List.replicate n (bbsWord g.bbs.st) := by
  refine List.eq_replicate_iff.2 ⟨length_pullStream_bbsNext hg hcon n, fun y hy => ?_⟩
  obtain ⟨m, rfl⟩ := exists_iterate_of_mem_pullStream_bbsNext hg hcon hy
  rw [iterate_fixed hfix]

end Stream

/-! ### The prime factors of n (R110, R111) -/

theorem prime_499 : Nat.Prime 499 := by norm_num
theorem prime_547 : Nat.Prime 547 := by norm_num

section Factor

variable {p : Nat}

/-- R111: a square mod n has the factors of n that its root has. -/
theorem dvd_bbsSquare_iff (hp : p.Prime) (hn : p ∣ 272953) (k : Nat) : p ∣ (bbsSquare k).val ↔ p ∣ k := by
  rw [bbsSquare_val, Nat.dvd_mod_iff hn, hp.dvd_mul, or_self]

theorem dvd_iterate_bbsStep_iff (hp : p.Prime) (hn : p ∣ 272953) (m : Nat) (x : Fin Config.bbsN) :
    p ∣ (bbsStep^[m] x).val ↔ p ∣ x.val := by
  induction m generalizing x with
  | zero => rfl
  | succ m ih => exact (ih (bbsStep x)).trans (dvd_bbsSquare_iff hp hn x.val)

/-- R111: the states of a stream have the factors of n that its seed has. -/
theorem iterate_bbsStep_bbsSquare_mod_iff (hp : p.Prime) (hn : p ∣ 272953) {k : Nat} (m : Nat) :
    (bbsStep^[m] (bbsSquare k)).val % p = 0 ↔ k % p = 0 := by
  rw [← Nat.dvd_iff_mod_eq_zero, ← Nat.dvd_iff_mod_eq_zero, dvd_iterate_bbsStep_iff hp hn, dvd_bbsSquare_iff hp hn]

/-- R110: mod a prime factor of n a fixed point is 0 or 1. -/
theorem dvd_or_dvd_pred_of_fixed (hp : p.Prime) (hn : p ∣ 272953) {x : Fin Config.bbsN} (hfix : bbsStep x = x) :
    p ∣ x.val ∨ p ∣ x.val - 1 := by
  have hmod : x.val ≡ x.val * x.val [MOD 272953] := by
    have hval : x.val * x.val % 272953 = x.val := congrArg Fin.val hfix
    rw [Nat.ModEq, hval]
    exact Nat.mod_eq_of_lt x.isLt
  have hdvd : 272953 ∣ x.val * (x.val - 1) := by
    rw [Nat.mul_sub_one]
    exact (Nat.modEq_iff_dvd' (Nat.le_mul_self _)).1 hmod
  exact hp.dvd_mul.1 (hn.trans hdvd)

end Factor

/-- R111: a seed that shares one of the two prime factors with n gives states that share that one and no other. -/
theorem iterate_bbsStep_of_shared_factor {p q k : Nat} (hpq : p = 499 ∧ q = 547 ∨ p = 547 ∧ q = 499) (hp : k % p = 0)
    (hq : k % q ≠ 0) (m : Nat) :
    (bbsStep^[m] (bbsSquare k)).val % p = 0 ∧ (bbsStep^[m] (bbsSquare k)).val % q ≠ 0 ∧
      (bbsStep^[m] (bbsSquare k)).val ≠ 0 := by
  have h499 := iterate_bbsStep_bbsSquare_mod_iff prime_499 (by decide) (k := k) m
  have h547 := iterate_bbsStep_bbsSquare_mod_iff prime_547 (by decide) (k := k) m
  obtain ⟨hpm, hqm⟩ : (bbsStep^[m] (bbsSquare k)).val % p = 0 ∧ (bbsStep^[m] (bbsSquare k)).val % q ≠ 0 := by
    rcases hpq with ⟨rfl, rfl⟩ | ⟨rfl, rfl⟩
    · exact ⟨h499.2 hp, h547.not.2 hq⟩
    · exact ⟨h547.2 hp, h499.not.2 hq⟩
  exact ⟨hpm, hqm, fun h0 => hqm (by rw [h0, Nat.zero_mod])⟩

theorem val_eq_zero_iff_dvd (x : Fin Config.bbsN) : x.val = 0 ↔ 499 ∣ x.val ∧ 547 ∣ x.val := by
  have hlt := val_lt_272953 x
  omega

/-- R111: the square is 0 exactly when both prime factors divide its root. -/
theorem bbsSquare_val_eq_zero_iff (k : Nat) : (bbsSquare k).val = 0 ↔ k % 272953 = 0 := by
  rw [val_eq_zero_iff_dvd, dvd_bbsSquare_iff prime_499 (by decide), dvd_bbsSquare_iff prime_547 (by decide)]
  omega

theorem iterate_bbsStep_val_eq_zero_iff (m : Nat) (x : Fin Config.bbsN) : (bbsStep^[m] x).val = 0 ↔ x.val = 0 := by
  rw [val_eq_zero_iff_dvd, dvd_iterate_bbsStep_iff prime_499 (by decide), dvd_iterate_bbsStep_iff prime_547 (by decide),
    ← val_eq_zero_iff_dvd]

/-- R110, by the Chinese remainder theorem: 0 or 1 mod each of the two prime factors. -/
theorem bbsStep_eq_self_iff (x : Fin Config.bbsN) :
    bbsStep x = x ↔ x.val = 0 ∨ x.val = 1 ∨ x.val = 28444 ∨ x.val = 244510 := by
  constructor
  · intro hfix
    have h499 := dvd_or_dvd_pred_of_fixed prime_499 (by decide) hfix
    have h547 := dvd_or_dvd_pred_of_fixed prime_547 (by decide) hfix
    have hlt := val_lt_272953 x
    omega
  · rintro (h | h | h | h) <;> exact Fin.ext (by rw [bbsStep, bbsSquare_val, h])

/-! ### The squares coprime to n (R113) -/

/-- λ(n) = lcm(498, 546) = 45318: the Fermat exponents of both prime factors divide it. -/
theorem pow_carmichael_modEq_one {x : Nat} (hx : x.Coprime 272953) : x ^ 45318 ≡ 1 [MOD 272953] := by
  have h499 : x ^ 45318 ≡ 1 [MOD 499] := by
    simpa [← pow_mul] using (Nat.ModEq.pow_card_sub_one_eq_one prime_499 (hx.coprime_dvd_right (by decide))).pow 91
  have h547 : x ^ 45318 ≡ 1 [MOD 547] := by
    simpa [← pow_mul] using (Nat.ModEq.pow_card_sub_one_eq_one prime_547 (hx.coprime_dvd_right (by decide))).pow 83
  exact (Nat.modEq_and_modEq_iff_modEq_mul (by decide : Nat.Coprime 499 547)).1 ⟨h499, h547⟩

theorem bbsSquare_mem_quadraticResidues {k : Nat} (hk : k.Coprime 272953) : bbsSquare k ∈ Spec.quadraticResidues :=
  ⟨k, hk, rfl⟩

/-- R113: the quadratic residues have the odd exponent λ(n) / 2. -/
theorem pow_halfCarmichael_modEq_one {y : Fin Config.bbsN} (hy : y ∈ Spec.quadraticResidues) :
    y.val ^ 22659 ≡ 1 [MOD 272953] := by
  obtain ⟨x, hx, hval⟩ := hy
  calc y.val ^ 22659
      ≡ (x * x) ^ 22659 [MOD 272953] := by rw [hval]; exact (Nat.mod_modEq _ _).pow _
    _ = x ^ 45318 := by rw [← pow_two, ← pow_mul]
    _ ≡ 1 [MOD 272953] := pow_carmichael_modEq_one hx

theorem coprime_of_mem_quadraticResidues {y : Fin Config.bbsN} (hy : y ∈ Spec.quadraticResidues) :
    y.val.Coprime 272953 := by
  obtain ⟨x, hx, hval⟩ := hy
  rw [hval]
  exact (Nat.mod_modEq (x * x) 272953).gcd_eq.trans (hx.mul_left hx)

theorem bbsStep_mapsTo_quadraticResidues : Set.MapsTo bbsStep Spec.quadraticResidues Spec.quadraticResidues :=
  fun _ hy => bbsSquare_mem_quadraticResidues (coprime_of_mem_quadraticResidues hy)

/-- R113: m squarings are the power 2^m, so they bring every quadratic residue back where 2^m ≡ 1 mod their exponent. -/
theorem isPeriodicPt_bbsStep {m : Nat} (hm : 2 ^ m % 22659 = 1) {y : Fin Config.bbsN} (hy : y ∈ Spec.quadraticResidues) :
    IsPeriodicPt bbsStep m y := by
  have hpow : y.val ^ 2 ^ m ≡ y.val [MOD 272953] := by
    calc y.val ^ 2 ^ m
        = (y.val ^ 22659) ^ (2 ^ m / 22659) * y.val := by
          rw [← pow_mul, ← pow_succ, ← hm, Nat.div_add_mod]
      _ ≡ 1 ^ (2 ^ m / 22659) * y.val [MOD 272953] := ((pow_halfCarmichael_modEq_one hy).pow _).mul_right _
      _ = y.val := by rw [one_pow, one_mul]
  refine Fin.ext ?_
  rw [iterate_bbsStep_val, hpow, Nat.mod_eq_of_lt y.isLt]

/-- 492 = lcm(2, 3, 12, 82), of the orders of 2 mod 3, 7, 13 and 83, whose product is 22659. -/
theorem two_pow_492_mod : 2 ^ (491 + 1) % 22659 = 1 := by
  rw [show 491 + 1 = 12 * 41 from rfl, pow_mul]
  norm_num

/-- R113: the squarings that are left of a period undo one squaring. -/
theorem bbsStep_bijOn_of_two_pow {m : Nat} (hm : 2 ^ (m + 1) % 22659 = 1) :
    Set.BijOn bbsStep Spec.quadraticResidues Spec.quadraticResidues := by
  have hleft : Set.LeftInvOn bbsStep^[m] bbsStep Spec.quadraticResidues := fun _ hy => isPeriodicPt_bbsStep hm hy
  have hright : Set.RightInvOn bbsStep^[m] bbsStep Spec.quadraticResidues := fun y hy =>
    (iterate_succ_apply' bbsStep m y).symm.trans (isPeriodicPt_bbsStep hm hy)
  exact Set.InvOn.bijOn ⟨hleft, hright⟩ bbsStep_mapsTo_quadraticResidues (bbsStep_mapsTo_quadraticResidues.iterate m)

theorem mem_periodicPts_bbsStep {y : Fin Config.bbsN} (hy : y ∈ Spec.quadraticResidues) : y ∈ periodicPts bbsStep :=
  mk_mem_periodicPts (Nat.succ_pos 491) (isPeriodicPt_bbsStep two_pow_492_mod hy)

/-! ### The cycle of a stream (R113) -/

section Cycle

variable {a : InstNum} {s : State} {g : Engines}

/-- The last pull of a period returns the state before it. -/
theorem getLast?_pullStream_of_isPeriodicPt (hg : s.engines a = some g) (hcon : g.bbs.con = true) {k : Nat} (hk : 0 < k)
    (hper : IsPeriodicPt bbsStep k g.bbs.st) : (pullStream k (.bbsNext a) s).getLast? = some (bbsWord g.bbs.st) := by
  obtain ⟨j, rfl⟩ := Nat.exists_eq_add_one.2 hk
  rw [pullStream_bbsNext hg hcon, List.range_succ, List.map_append, List.map_singleton, List.getLast?_concat, hper.eq]

/-- The pulls of the least period are distinct. -/
theorem nodup_pullStream_minimalPeriod (hg : s.engines a = some g) (hcon : g.bbs.con = true)
    (hst : g.bbs.st ∈ periodicPts bbsStep) : (pullStream (minimalPeriod bbsStep g.bbs.st) (.bbsNext a) s).Nodup := by
  rw [pullStream_bbsNext hg hcon]
  refine List.Nodup.map_on (fun i hi j hj hij => ?_) List.nodup_range
  refine iterate_injOn_Iio_minimalPeriod (f := bbsStep) (x := bbsStep g.bbs.st) ?_ ?_ (bbsWord_injective hij)
  · rw [minimalPeriod_apply hst]
    exact List.mem_range.1 hi
  · rw [minimalPeriod_apply hst]
    exact List.mem_range.1 hj

/-- After a period the stream starts again. -/
theorem pullStream_add_of_isPeriodicPt (hg : s.engines a = some g) (hcon : g.bbs.con = true) {k : Nat}
    (hper : IsPeriodicPt bbsStep k g.bbs.st) (n : Nat) :
    pullStream (k + n) (.bbsNext a) s = pullStream k (.bbsNext a) s ++ pullStream n (.bbsNext a) s := by
  simp only [pullStream_bbsNext hg hcon, List.range_add, List.map_append, List.map_map]
  refine congrArg _ (List.map_congr_left fun m _ => congrArg bbsWord ?_)
  calc bbsStep^[k + m + 1] g.bbs.st
      = bbsStep^[m + 1] (bbsStep^[k] g.bbs.st) := by rw [← iterate_add_apply]; congr 1; omega
    _ = bbsStep^[m + 1] g.bbs.st := by rw [hper.eq]

end Cycle

/-! ### The cycle of seed 42 (V-BBS-1) -/

theorem bbsSquare_42 : bbsSquare 42 = 1764 := by decide

/-- The cycle of seed 42, in six strides of 41 pulls. -/
theorem iterate_bbsStep_strides : bbsStep^[41] 1764 = 135614 ∧ bbsStep^[41] 135614 = 75117 ∧
    bbsStep^[41] 75117 = 170544 ∧ bbsStep^[41] 170544 = 242282 ∧ bbsStep^[41] 242282 = 165554 ∧ bbsStep^[41] 165554 = 1764 :=
  ⟨by decide, by decide, by decide, by decide, by decide, by decide⟩

theorem isPeriodicPt_1764 : IsPeriodicPt bbsStep (41 * 6) 1764 := by
  obtain ⟨h1, h2, h3, h4, h5, h6⟩ := iterate_bbsStep_strides
  rw [IsPeriodicPt, IsFixedPt, iterate_mul]
  generalize bbsStep^[41] = stride at *
  simp only [iterate_succ_apply, iterate_zero_apply, h1, h2, h3, h4, h5, h6]

/-- Half the cycle and a third of it end elsewhere. -/
theorem iterate_bbsStep_ne : bbsStep^[41 * 3] 1764 ≠ 1764 ∧ bbsStep^[41 * 2] 1764 ≠ 1764 := by
  obtain ⟨h1, h2, h3, _⟩ := iterate_bbsStep_strides
  rw [iterate_mul, iterate_mul]
  generalize bbsStep^[41] = stride at *
  simp only [iterate_succ_apply, iterate_zero_apply, h1, h2, h3]
  decide

/-- No proper divisor of 246 = 2 × 3 × 41 is a period: each divides 123, 82 or 6. -/
theorem minimalPeriod_1764 : minimalPeriod bbsStep 1764 = 246 := by
  have hproper : ∀ d ∈ Nat.divisors 246, d = 246 ∨ d ∣ 41 * 3 ∨ d ∣ 41 * 2 ∨ d ∣ 6 := by decide
  have hnot (m : Nat) (h : bbsStep^[m] 1764 ≠ 1764) : ¬ minimalPeriod bbsStep 1764 ∣ m :=
    fun hm => h (isPeriodicPt_iff_minimalPeriod_dvd.2 hm)
  obtain ⟨h123, h82⟩ := iterate_bbsStep_ne
  rcases hproper _ (Nat.mem_divisors.2 ⟨isPeriodicPt_1764.minimalPeriod_dvd, by decide⟩) with h | h | h | h
  · exact h
  · exact absurd h (hnot _ h123)
  · exact absurd h (hnot _ h82)
  · exact absurd h (hnot 6 (by decide))

/-! ### The obligations -/

/-- Settles O51: the fixed points by the Chinese remainder theorem; a stream from one of them iterates it. -/
theorem bbsFixedPointsAreExactlyFour : Obligations.BbsFixedPointsAreExactlyFour := by
  unfold Obligations.BbsFixedPointsAreExactlyFour
  refine ⟨bbsStep_eq_self_iff, by decide, fun inst s g hg hcon hfix n => pullStream_bbsNext_of_fixed hg hcon hfix n,
    fun v => ⟨(bbsSquare_val_eq_zero_iff v.toNat).2, fun h => ?_⟩⟩
  rw [bbsConstructed, ← bbsSquare_mod]
  rcases h with h | h <;> rw [h] <;> decide

/-- Settles O52: squaring mod n keeps which of the prime factors of n divide the state. -/
theorem bbsSharedFactorNeverReachesZero : Obligations.BbsSharedFactorNeverReachesZero := by
  unfold Obligations.BbsSharedFactorNeverReachesZero
  intro i inst s t v hinst hi h
  obtain ⟨g, hg, hcon, hst⟩ := engines_of_bbsConstructs hinst hi h
  have hzero : g.bbs.st.val = 0 ↔ v.toNat % 272953 = 0 := by rw [hst, bbsSquare_val_eq_zero_iff]
  refine ⟨g, hg, hcon, hzero, fun n => ⟨length_pullStream_bbsNext hg hcon n, fun y hy => ?_⟩, ?_⟩
  · obtain ⟨m, rfl⟩ := exists_iterate_of_mem_pullStream_bbsNext hg hcon hy
    rw [bbsWord_eq_zero_iff, iterate_bbsStep_val_eq_zero_iff, hzero]
  · intro p q hpq hvp hvq
    have hkeep (m : Nat) := iterate_bbsStep_of_shared_factor hpq hvp hvq m
    rw [← hst] at hkeep
    refine ⟨hkeep 0, fun n y hy => ?_⟩
    obtain ⟨m, rfl⟩ := exists_iterate_of_mem_pullStream_bbsNext hg hcon hy
    rw [toNat_bbsWord, ne_eq (bbsWord _), bbsWord_eq_zero_iff]
    exact hkeep m

/-- Settles O53: further squarings undo one, and the cycle is the least period of the constructed state. -/
theorem bbsSquarePermutesQuadraticResidues : Obligations.BbsSquarePermutesQuadraticResidues := by
  unfold Obligations.BbsSquarePermutesQuadraticResidues
  refine ⟨bbsStep_bijOn_of_two_pow two_pow_492_mod, fun i inst s t v hinst hi h hv => ?_⟩
  obtain ⟨g, hg, hcon, hst⟩ := engines_of_bbsConstructs hinst hi h
  have hres : g.bbs.st ∈ Spec.quadraticResidues := hst ▸ bbsSquare_mem_quadraticResidues hv
  have hpts := mem_periodicPts_bbsStep hres
  have hpos := minimalPeriod_pos_of_mem_periodicPts hpts
  have hper := isPeriodicPt_minimalPeriod bbsStep g.bbs.st
  refine ⟨g, minimalPeriod bbsStep g.bbs.st, hg, hres, hpos, getLast?_pullStream_of_isPeriodicPt hg hcon hpos hper,
    nodup_pullStream_minimalPeriod hg hcon hpts, pullStream_add_of_isPeriodicPt hg hcon hper, ?_⟩
  rintro rfl
  have h1764 : g.bbs.st = 1764 := hst.trans bbsSquare_42
  exact ⟨h1764 ▸ minimalPeriod_1764, h1764 ▸ rfl⟩

/-- Settles O47: every SEED_IN is a seed. -/
theorem bbsSeedStoresTheSquare : Obligations.BbsSeedStoresTheSquare := by
  unfold Obligations.BbsSeedStoresTheSquare
  intro inst s g hg
  exact ⟨bbsSquare s.seedIn.toNat, rfl, exec_of_bbsConstructs (.inl ⟨rfl, rfl⟩) hg⟩

/-- Settles O48: every draw is a seed. -/
theorem bbsSeeddStoresTheSquaredDraw : Obligations.BbsSeeddStoresTheSquaredDraw := by
  unfold Obligations.BbsSeeddStoresTheSquaredDraw
  intro inst s g hg
  exact ⟨bbsSquare s.entropyIn.toNat, rfl, exec_of_bbsConstructs (.inr ⟨rfl, rfl⟩) hg⟩

/-- Settles O49: the machine's pull; its word is the whole residue. -/
theorem bbsNextSquaresTheResidue : Obligations.BbsNextSquaresTheResidue := by
  unfold Obligations.BbsNextSquaresTheResidue
  intro inst s g hg hcon
  refine ⟨bbsStep g.bbs.st, bbsWord (bbsStep g.bbs.st), rfl, toNat_bbsWord _, ?_⟩
  rw [exec_bbsNext_of_constructed hg hcon, hcon]
  rfl

/-- Settles O50: a product mod n is that of the factors mod n, on the machine's square as on the numbers. -/
theorem bbsSeedReductionIsExact : Obligations.BbsSeedReductionIsExact := by
  unfold Obligations.BbsSeedReductionIsExact
  exact fun s => ⟨Nat.mul_mod s s 272953, (bbsSquare_mod s).symm⟩

end Sys2Proof.Machine

/-! Exceptions (60_exceptions.md). Each case of ILLEGAL_COMMAND is one check of `decode` (R115, O6). What an unconstructed
engine and a wide operand are answered is said once (R116, R117, O28, O29), and from it follow the status of every response
(R120, O25) and that an error writes the output registers alone (R118, O24). The port gives each accepted command one
response (O12), and idles without one (O14). -/

namespace Sys2Proof

/-! ### The fields of a word, read as numbers (R53) -/

theorem toNat_rsv1Field (w : Word) : (rsv1Field w).toNat = w.toNat / 2 ^ 16 := by
  have := w.isLt
  rw [rsv1Field, BitVec.extractLsb'_toNat, Nat.shiftRight_eq_div_pow]
  omega

theorem toNat_rsv0Field (w : Word) : (rsv0Field w).toNat = w.toNat / 2 ^ 4 % 2 ^ 4 := by
  rw [rsv0Field, BitVec.extractLsb'_toNat, Nat.shiftRight_eq_div_pow]

theorem toNat_opField (w : Word) : (opField w).toNat = w.toNat / 4 % 4 := by
  rw [opField, BitVec.extractLsb'_toNat, Nat.shiftRight_eq_div_pow]

theorem toNat_engField (w : Word) : (engField w).toNat = w.toNat % 4 := by
  rw [engField, BitVec.extractLsb'_toNat, Nat.shiftRight_zero]

theorem toNat_instField (w : Word) : (instField w).toNat = w.toNat / 2 ^ 8 % 2 ^ 8 := by
  rw [instField, BitVec.extractLsb'_toNat, Nat.shiftRight_eq_div_pow]

/-! ### The four checks of decoding, in order (R61, R115, R120) -/

/-- The first case of R115 that holds of a word, if one does, on the word's fields. -/
def firstCase (w : Word) (n : Nat) : Option DecodeError :=
  if rsv1Field w ≠ 0 ∨ rsv0Field w ≠ 0 then some .reservedBits
  else if opField w = 0 then some .reservedOp
  else if opField w = 0b11#2 ∧ engField w = 0 then some .mtHasNoSeedd
  else if n ≤ (instField w).toNat then some .noSuchInstance
  else none

/-- The same first case, read off the number CMD. -/
theorem firstCase_eq_of_toNat (w : Word) (n : Nat) : firstCase w n =
    if w.toNat / 2 ^ 16 ≠ 0 ∨ w.toNat / 2 ^ 4 % 2 ^ 4 ≠ 0 then some .reservedBits
    else if w.toNat / 4 % 4 = 0 then some .reservedOp
    else if w.toNat / 4 % 4 = 3 ∧ w.toNat % 4 = 0 then some .mtHasNoSeedd
    else if n ≤ w.toNat / 2 ^ 8 % 2 ^ 8 then some .noSuchInstance
    else none := by
  simp only [← toNat_rsv1Field, ← toNat_rsv0Field, ← toNat_opField, ← toNat_engField, ← toNat_instField]
  simp only [firstCase, ne_eq, ← BitVec.toNat_inj]
  rfl

/-- R55: OP = 00 is the reserved value. -/
theorem opOfField_eq_none_iff : ∀ b, opOfField b = none ↔ b = 0 := by decide

theorem opOfField_eq_seedd_iff : ∀ b, opOfField b = some .seedd ↔ b = 0b11#2 := by decide

theorem kindOfField_eq_mt_iff : ∀ b, kindOfField b = .mt ↔ b = 0 := by decide

/-- R120: decoding makes its checks in the order of the list, so its error is the first case that holds. -/
theorem decode_eq_error_iff (w : Word) (n : Nat) (e : DecodeError) :
    decode w n = .error e ↔ firstCase w n = some e := by
  unfold decode firstCase
  by_cases hrsv : rsv1Field w ≠ 0 ∨ rsv0Field w ≠ 0
  · rw [if_pos hrsv, if_pos hrsv]
    simp
  rw [if_neg hrsv, if_neg hrsv]
  cases ho : opOfField (opField w) with
  | none => simp [(opOfField_eq_none_iff _).1 ho]
  | some o =>
    have hop : opField w ≠ 0 := fun h => by simp [(opOfField_eq_none_iff _).2 h] at ho
    have hmt : instrOf o (kindOfField (engField w)) (instField w) = none ↔
        opField w = 0b11#2 ∧ engField w = 0 := by
      rw [instrOf_eq_none_iff, kindOfField_eq_mt_iff, ← opOfField_eq_seedd_iff, ho, Option.some_inj]
    rw [if_neg hop]
    cases hi : instrOf o (kindOfField (engField w)) (instField w) with
    | none =>
      rw [if_pos (hmt.1 hi)]
      simp [hi]
    | some i =>
      have hrow : ¬ (opField w = 0b11#2 ∧ engField w = 0) := fun h => by simp [hmt.2 h] at hi
      obtain ⟨_, _, hinst⟩ := eq_of_instrOf_eq_some hi
      have hwf : i.wf n = true ↔ ¬ n ≤ (instField w).toNat := by rw [wf_iff, hinst, not_le]
      rw [if_neg hrow]
      by_cases hn : n ≤ (instField w).toNat <;> simp [hi, hwf, hn]

end Sys2Proof

namespace Sys2Proof.Machine

/-! ### What an error leaves (R118) -/

/-- R118: an error writes the output registers and CMD_READY, and no other field. -/
theorem raise_eq_answered (e : CommandError) (s : State) : raise e s = Spec.answered e.status 0#32 s.insts s := rfl

/-- A completion that does not answer OK has raised an error on the state it found. -/
theorem exists_raise_of_completeCommand {s t : State} (h : completeCommand s = .next t)
    (herr : t.rspStatus ≠ okStatus) : ∃ e, t = raise e s := by
  rcases completeCommand_cases s with ⟨i, _, hc⟩ | ⟨_, _, hc⟩
  · rcases exec_cases i s with ⟨e, he⟩ | ⟨g, g', v, _, _, _, he⟩
    · exact ⟨e, Host.Outcome.next.inj (h.symm.trans (hc.trans he))⟩
    · cases h.symm.trans (hc.trans he)
      exact absurd (respond_rspStatus v _) herr
  · exact ⟨_, Host.Outcome.next.inj (h.symm.trans hc)⟩

/-! ### The answers of each operation, by its check (R116, R117, R120) -/

/-- The instance that a decoded command names is one the part has (R56, R61). -/
theorem exists_engines_of_lt {s : State} {a : InstNum} (h : a.toNat < s.ninst) : ∃ g, s.engines a = some g :=
  Option.isSome_iff_exists.1 ((engines_isSome_iff s a).2 h)

/-- R117. -/
theorem exec_next_of_unconstructed {i : Instr} {s : State} {g : Engines} (hop : i.op = .next)
    (hg : s.engines i.inst = some g) (hcon : g.con i.kind = false) : exec i s = .next (raise .unseeded s) := by
  rw [exec_of_next hop]
  exact pull_of_unseeded hg hcon

/-- R58: an operand with a bit set in its upper half is no 32-bit seed. -/
theorem seed32_of_ge {d : DWord} (h : 2 ^ 32 ≤ d.toNat) : seed32 d = none := by
  refine if_neg fun hhigh => ?_
  have hzero : d.toNat / 2 ^ 32 % 2 ^ 32 = 0 := by
    rw [← Nat.shiftRight_eq_div_pow, ← BitVec.extractLsb'_toNat, hhigh]
    rfl
  have := d.isLt
  omega

/-- SEED_IN is no operand for a SEED of kind k: it has more than the 32 bits of a seed of MT or XS (R116). -/
def WideSeed (k : Kind) (d : DWord) : Prop := (k = .mt ∨ k = .xs) ∧ 2 ^ 32 ≤ d.toNat

/-- R116. -/
theorem exec_seed_of_wide {i : Instr} {s : State} {g : Engines} (hop : i.op = .seed)
    (hg : s.engines i.inst = some g) (hwide : WideSeed i.kind s.seedIn) :
    exec i s = .next (raise .illegalOperand s) := by
  obtain ⟨hkind, hge⟩ := hwide
  cases i with
  | mtSeed a =>
    rw [exec_mtSeed, seed32_of_ge hge]
    exact construct_none hg
  | xsSeed a =>
    rw [exec_xsSeed, seed32_of_ge hge]
    exact construct_none hg
  | pcgSeed a | bbsSeed a => simp [Instr.kind] at hkind
  | mtNext a | xsNext a | xsSeedd a | pcgNext a | pcgSeedd a | bbsNext a | bbsSeedd a => nomatch hop

/-- R58: every other SEED constructs. -/
theorem exec_seed_of_fits {i : Instr} {s : State} {g : Engines} (hop : i.op = .seed)
    (hg : s.engines i.inst = some g) (hfits : ¬ WideSeed i.kind s.seedIn) :
    ∃ g', exec i s = .next (respond 0#32 (s.setEngines i.inst g')) := by
  cases i with
  | mtSeed a =>
    have hlt : s.seedIn.toNat < 2 ^ 32 := by simpa [WideSeed, Instr.kind] using hfits
    exact ⟨_, exec_mtSeed_of_lt hg hlt⟩
  | xsSeed a =>
    have hlt : s.seedIn.toNat < 2 ^ 32 := by simpa [WideSeed, Instr.kind] using hfits
    rw [exec_xsSeed, seed32_of_lt hlt]
    exact ⟨_, construct_some hg _⟩
  | pcgSeed a => exact ⟨_, (exec_pcgSeed a s).trans (construct_some hg _)⟩
  | bbsSeed a => exact ⟨_, (exec_bbsSeed a s).trans (construct_some hg _)⟩
  | mtNext a | xsNext a | xsSeedd a | pcgNext a | pcgSeedd a | bbsNext a | bbsSeedd a => nomatch hop

/-- R59: a SEEDD has no operand check. -/
theorem exec_seedd {i : Instr} {s : State} {g : Engines} (hop : i.op = .seedd) (hg : s.engines i.inst = some g) :
    ∃ g', exec i s = .next (respond 0#32 (s.setEngines i.inst g')) := by
  cases i with
  | xsSeedd a => exact ⟨_, (exec_xsSeedd a s).trans (construct_some hg _)⟩
  | pcgSeedd a => exact ⟨_, (exec_pcgSeedd a s).trans (construct_some hg _)⟩
  | bbsSeedd a => exact ⟨_, (exec_bbsSeedd a s).trans (construct_some hg _)⟩
  | mtNext a | mtSeed a | xsNext a | xsSeed a | pcgNext a | pcgSeed a | bbsNext a | bbsSeed a => nomatch hop

/-! ### The status of a response (R114, R120) -/

theorem completeCommand_of_decode_error {s : State} {e : DecodeError} (h : decode s.cmd s.ninst = .error e) :
    completeCommand s = .next (raise .illegalCommand s) := by
  simp [completeCommand, h]

section Status

variable {i : Instr} {s t : State} {g : Engines}

theorem rspStatus_of_seed (hop : i.op = .seed) (hg : s.engines i.inst = some g) (h : exec i s = .next t) :
    t.rspStatus = if (i.kind = .mt ∨ i.kind = .xs) ∧ 2 ^ 32 ≤ s.seedIn.toNat then 0b10#2 else 0b00#2 := by
  split
  next hwide =>
    cases h.symm.trans (exec_seed_of_wide hop hg hwide)
    rfl
  next hfits =>
    obtain ⟨g', hok⟩ := exec_seed_of_fits hop hg hfits
    cases h.symm.trans hok
    rfl

theorem rspStatus_of_next (hop : i.op = .next) (hg : s.engines i.inst = some g) (h : exec i s = .next t) :
    t.rspStatus = if s.con i.kind i.inst = some true then 0b00#2 else 0b11#2 := by
  have hflag : s.con i.kind i.inst = some (g.con i.kind) := by simp [State.con, hg]
  rw [hflag]
  cases hcon : g.con i.kind with
  | true =>
    cases h.symm.trans (exec_next_of_constructed hop hg hcon)
    rfl
  | false =>
    cases h.symm.trans (exec_next_of_unconstructed hop hg hcon)
    rfl

theorem rspStatus_of_seedd (hop : i.op = .seedd) (hg : s.engines i.inst = some g) (h : exec i s = .next t) :
    t.rspStatus = 0b00#2 := by
  obtain ⟨g', hok⟩ := exec_seedd hop hg
  cases h.symm.trans hok
  rfl

end Status

/-! ### The port between and across commands (R129, R136, R141) -/

theorem step_of_no_input {s : State} (hh : s.host = []) (hr : s.cmdReady = true) : step s = .next s := by
  simp [step, portStep, hh, hr]

theorem step_of_idle {s : State} {rest : List HostInput} (hh : s.host = .idle :: rest) (hr : s.cmdReady = true) :
    step s = .next { s with host := rest } := by
  simp [step, portStep, hh, hr]

theorem rst_eq_false_of_host_ne {s : State} (h : ∀ r, s.host ≠ .reset :: r) : s.rst = false := by
  unfold State.rst
  split
  next r hh => exact absurd hh (h r)
  next => rfl

/-- R141: a step of a ready block completes nothing. -/
theorem observe_of_ready {s : State} (hr : s.cmdReady = true) (t : State) : observe s t = none := by
  simp [observe, hr]

/-- R141: a step that answers the command in flight shows it with its response. -/
theorem observe_of_answer {s t : State} (hr : s.cmdReady = false) (hv : t.rspValid = true) :
    observe s t = some (⟨s.cmd, s.seedIn, s.entropyIn⟩, ⟨t.rspStatus, t.rspData⟩) := by
  simp [observe, hr, hv]

theorem trace_succ {s t : State} (h : step s = .next t) (n : Nat) :
    trace (n + 1) s = (observe s t).toList ++ trace n t := by
  simp [trace, h]

/-- R114: the step after an acceptance, if it is no reset, answers the command with one response. -/
theorem trace_one_of_inFlight {s : State} (hrst : s.rst = false) (hr : s.cmdReady = false) :
    ∃ r : Response, trace 1 s = [(⟨s.cmd, s.seedIn, s.entropyIn⟩, r)] := by
  obtain ⟨t, ht⟩ := completeCommand_isNext s
  obtain ⟨_, hvalid, _⟩ := completeCommand_port ht
  refine ⟨⟨t.rspStatus, t.rspData⟩, ?_⟩
  rw [trace_succ ((step_of_inFlight hrst hr).trans ht), observe_of_answer hr hvalid]
  rfl

/-! ### The obligations -/

/-- Settles O6: a chain of `if`s gives an entry exactly when its condition holds and none before it does (`ite_eq_iff`). -/
theorem decodeChecksInListedOrder : Obligations.DecodeChecksInListedOrder := by
  unfold Obligations.DecodeChecksInListedOrder
  intro w n
  simp only [decode_eq_error_iff, firstCase_eq_of_toNat, ite_eq_iff, Option.some.injEq, reduceCtorEq, and_true, and_false,
    or_false, false_or, and_self]

/-- Settles O12: the acceptance shows nothing, the completion the pair. -/
theorem acceptedCommandGetsExactlyOneResponse : Obligations.AcceptedCommandGetsExactlyOneResponse := by
  unfold Obligations.AcceptedCommandGetsExactlyOneResponse
  intro s c d e rest hh hr hnoReset
  have hrst : (acceptCommand c d e rest s).rst = false := rst_eq_false_of_host_ne hnoReset
  obtain ⟨r, hpair⟩ := trace_one_of_inFlight hrst (acceptCommand_cmdReady c d e rest s)
  refine ⟨r, ?_⟩
  rw [trace_succ (step_of_command hh hr), observe_of_ready hr]
  exact hpair

/-- Settles O24: what does not answer OK is a `raise`. -/
theorem errorResponseChangesOnlyTheOutputs : Obligations.ErrorResponseChangesOnlyTheOutputs := by
  unfold Obligations.ErrorResponseChangesOnlyTheOutputs
  intro s t hrst hready h herr
  rw [step_of_inFlight hrst hready] at h
  obtain ⟨e, rfl⟩ := exists_raise_of_completeCommand h herr
  exact raise_eq_answered e s

/-- Settles O25: a decoded command names an instance the part has, so the check of its operation decides. -/
theorem statusIsTheFirstFailingCheck : Obligations.StatusIsTheFirstFailingCheck := by
  unfold Obligations.StatusIsTheFirstFailingCheck
  intro s t hrst hready h
  rw [step_of_inFlight hrst hready] at h
  constructor
  · intro e he
    cases h.symm.trans (completeCommand_of_decode_error he)
    rfl
  · intro i hi
    obtain ⟨hinst, _⟩ := encode_of_decode hi
    obtain ⟨g, hg⟩ := exists_engines_of_lt hinst
    rw [completeCommand_of_decode hi] at h
    exact ⟨fun hop => rspStatus_of_seed hop hg h, fun hop => rspStatus_of_next hop hg h,
      fun hop => rspStatus_of_seedd hop hg h⟩

/-- Settles O14: the two ways of idling. -/
theorem idleBlockDoesNothing : Obligations.IdleBlockDoesNothing := by
  unfold Obligations.IdleBlockDoesNothing
  exact fun _ hr => ⟨fun hh => step_of_no_input hh hr, fun _ hh => step_of_idle hh hr⟩

/-- Settles O28: a flag that reads 0 is that of an instance the part has. -/
theorem nextOnUnconstructedInstanceIsUnseeded : Obligations.NextOnUnconstructedInstanceIsUnseeded := by
  unfold Obligations.NextOnUnconstructedInstanceIsUnseeded
  intro i s hop hflag
  rw [State.con, Option.map_eq_some_iff] at hflag
  obtain ⟨g, hg, hcon⟩ := hflag
  exact exec_next_of_unconstructed hop hg hcon

/-- Settles O29; the two kinds take the same seed from SEED_IN. -/
theorem wideMtAndXsSeedsAreIllegalOperands : Obligations.WideMtAndXsSeedsAreIllegalOperands := by
  unfold Obligations.WideMtAndXsSeedsAreIllegalOperands
  intro inst s hinst hge
  obtain ⟨g, hg⟩ := exists_engines_of_lt hinst
  exact ⟨exec_seed_of_wide (i := .mtSeed inst) rfl hg ⟨.inl rfl, hge⟩,
    exec_seed_of_wide (i := .xsSeed inst) rfl hg ⟨.inr rfl, hge⟩⟩

end Sys2Proof.Machine

/-! Reset and hazards (70_reset_and_hazards.md). A reset leaves the reset state (R130, R131, O13), and a command in flight is
answered while the outside waits (R136, R140, O11). A run is the relation `RunsTo`: its last state is the first one at which
the host program is over. Every run has one within the bound (R141, O54), and each of its steps moves commands from those the
run still owes an answer to the pairs it shows, so that without a reset all of them are answered in order (O55). -/

namespace Sys2Proof.Machine

/-! ### A reset, and a command in flight (R130, R131, R136) -/

theorem step_of_reset {s : State} {rest : List HostInput} (hh : s.host = .reset :: rest) :
    step s = .next (applyReset rest s) := by
  simp [step, portStep, hh]

/-- R131: what was in flight before a reset gets no response. -/
theorem observe_applyReset (rest : List HostInput) (s : State) : observe s (applyReset rest s) = none := by
  simp [observe]

/-- R36: a completion leaves NINST, the input registers and the outside's list alone. -/
theorem completeCommand_frame {s t : State} (h : completeCommand s = .next t) :
    t.host = s.host ∧ t.cmd = s.cmd ∧ t.seedIn = s.seedIn ∧ t.entropyIn = s.entropyIn ∧ t.ninst = s.ninst := by
  rcases completeCommand_cases s with ⟨i, _, hexec⟩ | ⟨_, _, hraise⟩
  · obtain ⟨hninst, hcmd, hseedIn, hentropyIn, hhost, _⟩ := exec_frame (hexec.symm.trans h)
    exact ⟨hhost, hcmd, hseedIn, hentropyIn, hninst⟩
  · cases h.symm.trans hraise
    simp

/-! ### The run of a host program (R141, log 22) -/

theorem stateAfter_succ {s u : State} (h : step s = .next u) (n : Nat) : stateAfter (n + 1) s = stateAfter n u := by
  simp [stateAfter, h]

theorem observeRun_of_runEnded {s : State} (hend : s.runEnded = true) (b : Nat) :
    observeRun b s = some ⟨[], s.insts.map Engines.view⟩ := by
  cases b <;> simp [observeRun, hend]

theorem observeRun_succ {s u : State} (hend : s.runEnded = false) (h : step s = .next u) (b : Nat) :
    observeRun (b + 1) s = (observeRun b u).map fun o => { o with pairs := (observe s u).toList ++ o.pairs } := by
  simp [observeRun, hend, h]

/-- `RunsTo s n t`: the run from `s` is over after `n` steps, in the state `t`, and not before. -/
inductive RunsTo : State → Nat → State → Prop
  | ended {s : State} (hend : s.runEnded = true) : RunsTo s 0 s
  | step {s u t : State} {n : Nat} (hend : s.runEnded = false) (h : step s = .next u) (hrun : RunsTo u n t) :
      RunsTo s (n + 1) t

/-- R140, R141: every run ends within the bound, which falls at each step. -/
theorem exists_runsTo (s : State) : ∃ n t, n ≤ s.stepsToEnd ∧ RunsTo s n t := by
  cases hend : s.runEnded with
  | true => exact ⟨0, s, Nat.zero_le _, .ended hend⟩
  | false =>
    obtain ⟨u, hu⟩ := step_isNext s
    have hfalls : u.stepsToEnd < s.stepsToEnd := step_stepsToEnd_lt hend hu
    obtain ⟨n, t, hn, hrun⟩ := exists_runsTo u
    exact ⟨n + 1, t, by omega, .step hend hu hrun⟩
termination_by s.stepsToEnd

namespace RunsTo

variable {s t : State} {n : Nat}

theorem stateAfter_eq (h : RunsTo s n t) : stateAfter n s = some t := by
  induction h with
  | ended => rfl
  | step _ hstep _ ih => exact (stateAfter_succ hstep _).trans ih

theorem runEnded_last (h : RunsTo s n t) : t.runEnded = true := by
  induction h with
  | ended hend => exact hend
  | step _ _ _ ih => exact ih

theorem not_runEnded_before (h : RunsTo s n t) :
    ∀ m, m < n → ∀ u, stateAfter m s = some u → u.runEnded = false := by
  induction h with
  | ended => exact fun _ hm => absurd hm (Nat.not_lt_zero _)
  | step hend hstep _ ih =>
    intro m hm v hv
    cases m with
    | zero =>
      cases hv
      exact hend
    | succ m =>
      rw [stateAfter_succ hstep] at hv
      exact ih m (Nat.lt_of_succ_lt_succ hm) v hv

/-- What is observed of a run does not depend on the bound, once the bound is no less than the steps the run takes. -/
theorem observeRun_eq (h : RunsTo s n t) {b : Nat} (hb : n ≤ b) :
    observeRun b s = some ⟨trace n s, t.insts.map Engines.view⟩ := by
  induction h generalizing b with
  | ended hend => exact observeRun_of_runEnded hend b
  | step hend hstep _ ih =>
    obtain ⟨b, rfl⟩ := Nat.exists_eq_add_one_of_ne_zero (Nat.ne_zero_of_lt hb)
    rw [observeRun_succ hend hstep, ih (Nat.le_of_succ_le_succ hb), trace_succ hstep]
    rfl

end RunsTo

/-! ### The commands a run owes an answer (R47, R114, R141) -/

/-- The command in flight, and then those that the outside presents. -/
def owed (s : State) : List Command := Spec.inFlight s ++ Spec.commandsOf s.host

theorem owed_of_ready {s : State} (hr : s.cmdReady = true) : owed s = Spec.commandsOf s.host := by
  simp [owed, Spec.inFlight, hr]

theorem owed_of_inFlight {s : State} (hr : s.cmdReady = false) :
    owed s = ⟨s.cmd, s.seedIn, s.entropyIn⟩ :: Spec.commandsOf s.host := by
  simp [owed, Spec.inFlight, hr]

theorem commandsOf_eq_nil {inputs : List HostInput} (h : inputs.any HostInput.isCommand = false) :
    Spec.commandsOf inputs = [] := by
  induction inputs with
  | nil => rfl
  | cons x rest ih =>
    rw [List.any_cons, Bool.or_eq_false_iff] at h
    obtain ⟨hx, hrest⟩ := h
    cases x with
    | command => cases hx
    | idle => exact ih hrest
    | reset => exact ih hrest

/-- A run that is over owes nothing. -/
theorem owed_of_runEnded {s : State} (hend : s.runEnded = true) : owed s = [] := by
  rw [State.runEnded, Bool.and_eq_true, Bool.not_eq_true'] at hend
  obtain ⟨hready, hnone⟩ := hend
  rw [owed_of_ready hready, commandsOf_eq_nil hnone]

/-- What the outside presents is used up from the front. -/
theorem host_suffix_of_step {s t : State} (h : step s = .next t) : t.host <:+ s.host := by
  rcases step_cases s with ⟨rest, hh, hreset⟩ | ⟨_, _, hcomplete⟩ | ⟨c, d, e, rest, hh, _, haccept⟩ |
    ⟨rest, hh, _, hidle⟩ | ⟨_, _, hidle⟩
  · cases h.symm.trans hreset
    exact hh ▸ List.suffix_cons _ rest
  · obtain ⟨hhost, _⟩ := completeCommand_frame (hcomplete.symm.trans h)
    exact hhost ▸ List.suffix_refl _
  · cases h.symm.trans haccept
    exact hh ▸ List.suffix_cons _ rest
  · cases h.symm.trans hidle
    exact hh ▸ List.suffix_cons _ rest
  · cases h.symm.trans hidle
    exact List.suffix_refl _

/-- R136, R141: without a reset, a step shows the first command owed or shows nothing, and it loses none. -/
theorem observe_append_owed {s t : State} (hno : .reset ∉ s.host) (h : step s = .next t) :
    (observe s t).toList.map Prod.fst ++ owed t = owed s := by
  rcases step_cases s with ⟨rest, hh, _⟩ | ⟨_, hr, hcomplete⟩ | ⟨c, d, e, rest, hh, hr, haccept⟩ |
    ⟨rest, hh, hr, hidle⟩ | ⟨_, hr, hidle⟩
  · exact absurd (hh ▸ List.mem_cons_self) hno
  · obtain ⟨hready, hvalid, hhost⟩ := completeCommand_port (hcomplete.symm.trans h)
    rw [observe_of_answer hr hvalid, owed_of_ready hready, owed_of_inFlight hr, hhost]
    rfl
  · cases h.symm.trans haccept
    rw [observe_of_ready hr, owed_of_inFlight (by simp), owed_of_ready hr, hh]
    rfl
  · cases h.symm.trans hidle
    rw [observe_of_ready hr, owed_of_ready hr, owed_of_ready (s := { s with host := rest }) hr, hh]
    rfl
  · cases h.symm.trans hidle
    rw [observe_of_ready hr]
    rfl

/-- The commands of the pairs of a run without a reset are those that it owed. -/
theorem RunsTo.trace_commands {s t : State} {n : Nat} (h : RunsTo s n t) (hno : .reset ∉ s.host) :
    (trace n s).map Prod.fst = owed s := by
  induction h with
  | ended hend => exact (owed_of_runEnded hend).symm
  | step _ hstep _ ih =>
    have hno' := fun hmem => hno ((host_suffix_of_step hstep).mem hmem)
    rw [trace_succ hstep, List.map_append, ih hno', observe_append_owed hno hstep]

/-! ### The obligations -/

/-- Settles O54: the run that `exists_runsTo` gives. -/
theorem everyRunEndsWithItsPairsAndFinalEngines : Obligations.EveryRunEndsWithItsPairsAndFinalEngines := by
  unfold Obligations.EveryRunEndsWithItsPairsAndFinalEngines
  intro s
  obtain ⟨n, t, hn, hrun⟩ := exists_runsTo s
  exact ⟨n, t, hn, hrun.stateAfter_eq, hrun.runEnded_last, hrun.not_runEnded_before, hrun.observeRun_eq hn⟩

/-- Settles O55: the pairs are those of the trace up to the end of the run. -/
theorem runAnswersAllCommandsInOrder : Obligations.RunAnswersAllCommandsInOrder := by
  unfold Obligations.RunAnswersAllCommandsInOrder
  intro s hno
  obtain ⟨n, t, hn, hrun⟩ := exists_runsTo s
  exact ⟨_, hrun.observeRun_eq hn, hrun.trace_commands fun hmem => hno _ hmem rfl⟩

/-- Settles O11: the step is a completion, which answers and touches nothing of the outside. -/
theorem inFlightCommandIsAnsweredAndOthersWait : Obligations.InFlightCommandIsAnsweredAndOthersWait := by
  unfold Obligations.InFlightCommandIsAnsweredAndOthersWait
  intro s hrst hr
  obtain ⟨t, ht⟩ := completeCommand_isNext s
  obtain ⟨hready, hvalid, _⟩ := completeCommand_port ht
  exact ⟨t, (step_of_inFlight hrst hr).trans ht, hvalid, hready, completeCommand_frame ht⟩

/-- Settles O13: the state is `applyReset`, whose engines are those of the reset state (O16). -/
theorem resetDiscardsTheCommandInFlight : Obligations.ResetDiscardsTheCommandInFlight := by
  unfold Obligations.ResetDiscardsTheCommandInFlight
  intro s rest hh
  exact ⟨_, step_of_reset hh, observe_applyReset rest s, applyReset_ninst rest s,
    fun _ hg k => con_of_mem_resetWith hg k, rfl, rfl, rfl, rfl, rfl⟩

end Sys2Proof.Machine

/-! A command outside decoding (log 19): `exec` alone, on an instance that the part does not have (O27). Decoding gives no such
command (R61), so the answer is the model's choice; it is the one that decoding gives (R115). -/

namespace Sys2Proof.Machine

/-- An instance number from NINST on names no engines (R56). -/
theorem engines_eq_none_iff (s : State) (a : InstNum) : s.engines a = none ↔ s.ninst ≤ a.toNat :=
  List.getElem?_eq_none_iff

/-- Both shapes of a command look for the instance before any other check (R120). -/
theorem exec_of_missing {i : Instr} {s : State} (hg : s.engines i.inst = none) :
    exec i s = .next (raise .illegalCommand s) := by
  rcases exec_shape i with ⟨_, advance, out, hexec, _⟩ | ⟨_, α, seed, build, hexec, _⟩
  · rw [hexec]
    exact pull_of_missing hg
  · rw [hexec]
    exact construct_of_missing hg

/-- Settles O27: an instance number from NINST on finds no engines, and an error changes the output registers alone. -/
theorem missingInstanceIsIllegalCommand : Obligations.MissingInstanceIsIllegalCommand := by
  unfold Obligations.MissingInstanceIsIllegalCommand
  intro i s hmissing
  rw [exec_of_missing ((engines_eq_none_iff s i.inst).2 hmissing)]
  exact congrArg Host.Outcome.next (raise_eq_answered .illegalCommand s)

end Sys2Proof.Machine
